-- ==== Sys2Proof/Word.lean ====
section
/-! DEFINITION. The words of the frame encoder: the bytes of a frame, the three-bit values on an
input port, and the two flat views of the ports as one number (00_scope.md R9, 10_state.md R22). -/

namespace Sys2Proof

/-- One byte of a frame, `W_BYTE` = 8 bits (00_scope.md R7, R9: bit 0 is the least significant). -/
abbrev Byte := BitVec 8

/-- The value on one of the three input ports, three bits, unsigned (10_state.md R20). -/
abbrev PortBits := BitVec 3

/-- The configuration word `CFG`, nine bits (30_encoding.md R41). -/
abbrev CfgWord := BitVec 9

/-- The flat view `frame_flat` of a frame, forty bits (10_state.md R22). -/
abbrev FrameWord := BitVec 40

end Sys2Proof
end

