-- ==== Sys2Proof/Config.lean ====
section
/-! DEFINITION. What is fixed for the block and what the spec leaves free: the constants of
00_scope.md R6 and R7, the open timing parameters of R8, and the free values `ANY_8` of R10. -/

namespace Sys2Proof.Config

/-- `START`, the start marker (00_scope.md R6; 10_state.md R16). -/
abbrev startMarker : Byte := 0xFA#8

/-- `INV_K`, the constant of the range inversion (00_scope.md R6; 10_state.md R16). -/
abbrev invK : PortBits := 6#3

/-- `LEVEL_MIN` (00_scope.md R6). -/
abbrev levelMin : Nat := 1

/-- `LEVEL_MAX` (00_scope.md R6). -/
abbrev levelMax : Nat := 5

/-- `W_SUM`, the width of the reference checksum sum (00_scope.md R7; 42_checksum.md R77). -/
abbrev sumWidth : Nat := 16

/-- The draws `ANY_8` of 00_scope.md R10: the `n`-th unconstrained byte of a run. It has no body, so
nothing can be proved of its values, and no two of them are related (30_encoding.md R50).
DESIGN CHOICE (the form of a draw), safe within one run: log entry 1. -/
opaque anyByte : Nat → Byte

/-- `T_PD` less one. Open (00_scope.md R8; 92_eei_decisions.md D9 asks only `T_PD > 0`).
Safe: log entry 6. -/
opaque settleTimeLessOne : Nat

/-- `T_PD`, the longest time from the last input change to all forty output bits being valid
(00_scope.md R8): any positive number of time units. Safe: log entry 6. -/
def settleTime : Nat := settleTimeLessOne + 1

/-- `T_INTERBYTE`, the delay the consumer keeps between byte writes, in the time units of `settleTime`
(00_scope.md R8; 70_reset_and_hazards.md R125: a parameter with no tolerance). Safe: log entry 7. -/
opaque interByteDelay : Nat

/-- `T_WRITE_TIMEOUT`, the transport's bound on one byte write (00_scope.md R8;
70_reset_and_hazards.md R124, R125). Safe: log entry 7. -/
opaque writeTimeout : Nat

end Sys2Proof.Config
end

