-- ==== Sys2Proof/Syntax.lean ====
section
/-! DEFINITION. The closed enumeration of modes (00_scope.md R11) and the rows of the opcode table,
one constructor each (30_encoding.md R48, R42). -/

namespace Sys2Proof

/-- The mode of a configuration, a closed enumeration of five (00_scope.md R11; 30_encoding.md R52).
Its binary spelling on the port is `modeSel`, in the decoder's file; its wire code is
`Machine.code`. -/
inductive Mode
  | off
  | auto
  | rainbow
  | breathing
  | colourCycle
deriving DecidableEq, Repr

/-- The rows of the opcode table. The first eight are the nine-bit configuration words (format `CFG`,
30_encoding.md R41, R48), with the user-facing values on the level ports as operands; every one of the
512 words is one of them. `frame` is the output format `FRAME` (30_encoding.md R42), whose rule is
the assembly of the four nets (43_assembly.md R84). -/
inductive Instr
  /-- `ENC.OFF b, s` (43_assembly.md R87) -/
  | encOff (brightness speed : PortBits)
  /-- `ENC.AUTO b, s` (43_assembly.md R88) -/
  | encAuto (brightness speed : PortBits)
  /-- `ENC.RAINBOW b, s` (43_assembly.md R89) -/
  | encRainbow (brightness speed : PortBits)
  /-- `ENC.BREATHING b, s` (43_assembly.md R90) -/
  | encBreathing (brightness speed : PortBits)
  /-- `ENC.COLOURCYCLE b, s` (43_assembly.md R91) -/
  | encColourCycle (brightness speed : PortBits)
  /-- the reserved select 5 (30_encoding.md R49, R50; 43_assembly.md R86) -/
  | reserved5 (brightness speed : PortBits)
  /-- the reserved select 6 -/
  | reserved6 (brightness speed : PortBits)
  /-- the reserved select 7 -/
  | reserved7 (brightness speed : PortBits)
  /-- the format `FRAME`: mode code, wire brightness, wire speed, checksum (43_assembly.md R84) -/
  | frame (modeCode wireBrightness wireSpeed : PortBits) (checksum : Byte)
deriving DecidableEq, Repr

/-- The mnemonic of a row, as the opcode table spells it. -/
def Instr.mnemonic : Instr → String
  | .encOff _ _ => "ENC.OFF"
  | .encAuto _ _ => "ENC.AUTO"
  | .encRainbow _ _ => "ENC.RAINBOW"
  | .encBreathing _ _ => "ENC.BREATHING"
  | .encColourCycle _ _ => "ENC.COLOURCYCLE"
  | .reserved5 _ _ => "RESERVED.5"
  | .reserved6 _ _ => "RESERVED.6"
  | .reserved7 _ _ => "RESERVED.7"
  | .frame _ _ _ _ => "FRAME"

end Sys2Proof
end

