-- ==== Sys2Proof/WellFormed.lean ====
section
/-! DEFINITION. Which instruction terms the table's constraints admit. A producer may drive any of the
512 configuration words (70_reset_and_hazards.md R129) and none is illegal (30_encoding.md R50), so
every `CFG` term is well formed; the pattern `FRAME` holds in the valid domain only, so its fields
are bound as 30_encoding.md R42, R45 to R47 bind them (DESIGN CHOICE, safe: log entry 11). -/

namespace Sys2Proof

/-- A mode code, wire brightness or wire speed of a frame is 1 to 5 (30_encoding.md R42). -/
def wireFieldOk (v : PortBits) : Bool :=
  decide (Config.levelMin ≤ v.toNat) && decide (v.toNat ≤ Config.levelMax)

/-- Byte 4 of a frame is the sum of the other four modulo 256 (30_encoding.md R42; 42_checksum.md
R83). -/
def frameSumOk (modeCode wireBrightness wireSpeed : PortBits) (checksum : Byte) : Bool :=
  checksum.toNat ==
    (Config.startMarker.toNat + modeCode.toNat + wireBrightness.toNat + wireSpeed.toNat) % 256

/-- The check of an instruction term. -/
def WellFormed : Instr → Bool
  | .encOff _ _ => true
  | .encAuto _ _ => true
  | .encRainbow _ _ => true
  | .encBreathing _ _ => true
  | .encColourCycle _ _ => true
  | .reserved5 _ _ => true
  | .reserved6 _ _ => true
  | .reserved7 _ _ => true
  | .frame m b s c => wireFieldOk m && wireFieldOk b && wireFieldOk s && frameSumOk m b s c

end Sys2Proof
end

