-- ==== Sys2Proof/Decode.lean ====
section
/-! DEFINITION. The decoder, total on any bytes, and after it the encoder (30_encoding.md R40 to R54).

The bytes of a `CFG` word are its low eight bits and then its ninth, the second byte's other bits
zero (DESIGN CHOICE, safe: log entry 3); the bytes of a `FRAME` are byte 0 to byte 4 in the order of the wire. -/

namespace Sys2Proof

/-- `MODE_SEL_ENC` read from the port: the partial function `mode_of` of 41_mode_mapping.md R71
(30_encoding.md R43). The numbering is the spec's decision D3 (UNVERIFIED: log entry 10). -/
def modeOf (k : PortBits) : Option Mode :=
  match k.toNat with
  | 0 => some .off
  | 1 => some .auto
  | 2 => some .rainbow
  | 3 => some .breathing
  | 4 => some .colourCycle
  | _ => none

/-- `MODE_SEL_ENC`: the select value of a mode (30_encoding.md R43). -/
def modeSel : Mode → PortBits
  | .off => 0#3
  | .auto => 1#3
  | .rainbow => 2#3
  | .breathing => 3#3
  | .colourCycle => 4#3

/-- Why a list of bytes is no word of the two formats. -/
inductive DecodeError
  /-- neither two nor five bytes: there is no other length (30_encoding.md R40, R54) -/
  | noSuchLength
  /-- a bit above the nine of `CFG` is set (30_encoding.md R41) -/
  | bitAboveCfg
  /-- byte 0 is not the start marker (30_encoding.md R42) -/
  | noStartMarker
  /-- one of bits 7 to 3 of byte 1, 2 or 3 is set (30_encoding.md R42, R45, R46) -/
  | frameHighBits
deriving DecidableEq, Repr

/-- `CFG[8:0] = { mode_sel, brightness, speed }` (10_state.md R22; 30_encoding.md R41). -/
def cfgWord (k b s : PortBits) : CfgWord := k ++ b ++ s

/-- Field `mode_sel`, `CFG[8:6]` (30_encoding.md R41). -/
def cfgModeSel (w : CfgWord) : PortBits := w.extractLsb' 6 3

/-- Field `brightness`, `CFG[5:3]` (30_encoding.md R41). -/
def cfgBrightness (w : CfgWord) : PortBits := w.extractLsb' 3 3

/-- Field `speed`, `CFG[2:0]` (30_encoding.md R41). -/
def cfgSpeed (w : CfgWord) : PortBits := w.extractLsb' 0 3

/-- The configuration instruction of a mode. -/
def instrOfMode (b s : PortBits) : Mode → Instr
  | .off => .encOff b s
  | .auto => .encAuto b s
  | .rainbow => .encRainbow b s
  | .breathing => .encBreathing b s
  | .colourCycle => .encColourCycle b s

/-- The instruction that three port values stand for: the mode's row where the select names a mode,
else the row of the reserved select (30_encoding.md R48, R49). -/
def instrOfFields (k b s : PortBits) : Instr :=
  match modeOf k with
  | some m => instrOfMode b s m
  | none => if k = 5#3 then .reserved5 b s else if k = 6#3 then .reserved6 b s else .reserved7 b s

/-- Every one of the 512 configuration words is an instruction (30_encoding.md R48 to R50). -/
def decodeCfg (w : CfgWord) : Instr :=
  instrOfFields (cfgModeSel w) (cfgBrightness w) (cfgSpeed w)

/-- The five bytes of a `FRAME`, read by the pattern of 30_encoding.md R42; the ranges and the sum are
`WellFormed`'s to check (DESIGN CHOICE, safe: log entry 11). -/
def decodeFrame (b0 b1 b2 b3 b4 : Byte) : Except DecodeError Instr :=
  if b0 = Config.startMarker then
    if b1.toNat < 8 ∧ b2.toNat < 8 ∧ b3.toNat < 8 then
      .ok (.frame (b1.setWidth 3) (b2.setWidth 3) (b3.setWidth 3) b4)
    else .error .frameHighBits
  else .error .noStartMarker

/-- The decoder: two bytes are a `CFG` word, five a `FRAME`, and there is no other length
(30_encoding.md R40). -/
def decode : List Byte → Except DecodeError Instr
  | [lo, hi] =>
    if hi.toNat < 2 then .ok (decodeCfg ((hi ++ lo).setWidth 9)) else .error .bitAboveCfg
  | [b0, b1, b2, b3, b4] => decodeFrame b0 b1 b2 b3 b4
  | _ => .error .noSuchLength

/-- The two bytes of a configuration word, low byte first (DESIGN CHOICE, safe: log entry 3). -/
def cfgBytes (w : CfgWord) : List Byte := [w.setWidth 8, (w >>> 8).setWidth 8]

/-- The encoder, from the encodings of 30_encoding.md R42, R43 and R48. -/
def encode : Instr → List Byte
  | .encOff b s => cfgBytes (cfgWord (modeSel .off) b s)
  | .encAuto b s => cfgBytes (cfgWord (modeSel .auto) b s)
  | .encRainbow b s => cfgBytes (cfgWord (modeSel .rainbow) b s)
  | .encBreathing b s => cfgBytes (cfgWord (modeSel .breathing) b s)
  | .encColourCycle b s => cfgBytes (cfgWord (modeSel .colourCycle) b s)
  | .reserved5 b s => cfgBytes (cfgWord 5#3 b s)
  | .reserved6 b s => cfgBytes (cfgWord 6#3 b s)
  | .reserved7 b s => cfgBytes (cfgWord 7#3 b s)
  | .frame m b s c => [Config.startMarker, m.setWidth 8, b.setWidth 8, s.setWidth 8, c]

/-- The bytes of a table row's word: up to sixteen bits are a `CFG` word, low byte first; forty bits
are `frame_flat`, byte 0 in bits 39 to 32 (10_state.md R22); there is no other format. -/
def tableWordBytes (nbits w : Nat) : Option (List Byte) :=
  if nbits ≤ 16 ∧ w < 2 ^ 16 then
    some [BitVec.ofNat 8 w, BitVec.ofNat 8 (w / 2 ^ 8)]
  else if nbits = 40 ∧ w < 2 ^ 40 then
    some [BitVec.ofNat 8 (w / 2 ^ 32), BitVec.ofNat 8 (w / 2 ^ 24), BitVec.ofNat 8 (w / 2 ^ 16),
      BitVec.ofNat 8 (w / 2 ^ 8), BitVec.ofNat 8 w]
  else none

/-- The instruction the decoder reads from a word numbered as the opcode table numbers it. -/
def decodeTableWord (nbits w : Nat) : Option Instr :=
  match tableWordBytes nbits w with
  | some bytes =>
    match decode bytes with
    | .ok i => some i
    | .error _ => none
  | none => none

/-- One row of the map of 30_encoding.md R48: a mnemonic, and the value of the word under the mask. -/
structure CfgRow where
  mnemonic : String
  value : CfgWord
deriving DecidableEq, Repr

/-- The mask of every row of 30_encoding.md R48. -/
def cfgMask : CfgWord := 0x1C0#9

/-- The rows of 30_encoding.md R48 as data, beside the decoder, to check it against. -/
def cfgRows : List CfgRow :=
  [⟨"ENC.OFF", 0x000#9⟩, ⟨"ENC.AUTO", 0x040#9⟩, ⟨"ENC.RAINBOW", 0x080#9⟩,
   ⟨"ENC.BREATHING", 0x0C0#9⟩, ⟨"ENC.COLOURCYCLE", 0x100#9⟩, ⟨"RESERVED.5", 0x140#9⟩,
   ⟨"RESERVED.6", 0x180#9⟩, ⟨"RESERVED.7", 0x1C0#9⟩]

/-- A word lies under a row. -/
def CfgRow.covers (r : CfgRow) (w : CfgWord) : Bool := w &&& cfgMask == r.value

end Sys2Proof
end

