-- ==== Sys2Proof/Machine/State.lean ====
section
/-! DEFINITION. The state as plain data. The block stores nothing (10_state.md R13 to R18, R23 to R25):
what a state of the model holds is the valuation of its ports, that is one observation of it
(70_reset_and_hazards.md R130), and the model's own counter of draws. -/

namespace Sys2Proof.Machine

/-- What an input port carries. -/
inductive PortLevel
  /-- not driven, undriven, or at an unknown logic level: it counts as out of domain
  (70_reset_and_hazards.md R114; 92_eei_decisions.md D16). DEDUCED, safe: log entry 8. -/
  | unknown
  /-- a value the producer drives (10_state.md R20) -/
  | driven (value : PortBits)
deriving DecidableEq, Repr

/-- The five bytes of a frame, `frame_byte[0]` to `frame_byte[4]` (00_scope.md R11; 20_memory.md
R27). -/
structure Frame where
  byte0 : Byte
  byte1 : Byte
  byte2 : Byte
  byte3 : Byte
  byte4 : Byte
deriving DecidableEq, Repr

/-- The ports of the block (10_state.md R19: three inputs, five outputs, nothing else), and the
model's counter of draws. -/
structure State where
  /-- `in.mode_sel` (10_state.md R20) -/
  modeSel : PortLevel
  /-- `in.brightness` (10_state.md R20), the user-facing level -/
  brightness : PortLevel
  /-- `in.speed` (10_state.md R20), the user-facing level -/
  speed : PortLevel
  /-- `out.frame_byte[0]` to `out.frame_byte[4]` (10_state.md R21) -/
  out : Frame
  /-- THE MODEL'S OWN, no state of the block: how many draws `Config.anyByte` have been taken.
  DESIGN CHOICE, safe within one run: log entry 1. -/
  draws : Nat
deriving DecidableEq, Repr

/-- The faults of the block: none. The complete list of its exceptions is the empty list
(60_exceptions.md R99), and an input outside the domain is no fault state (R100). -/
inductive Fault
deriving DecidableEq, Repr

/-- The refusals of the model. -/
inductive Refusal
  /-- An instruction with no meaning yet, refused by name in the dispatcher; no arm raises it in this
  model. Safe: it stops where the hardware goes on. -/
  | notModelled (mnemonic : String)
deriving DecidableEq, Repr

/-- Power-up (there is no reset, 70_reset_and_hazards.md R113): no input is driven yet, byte 0 is the
constant 0xFA, and the other four bytes are `ANY_8` (R114), the first four draws; no configuration
is assumed (R115). DESIGN CHOICE (which draws, and the counter's start), safe: log entry 2. -/
def State.reset : State where
  modeSel := .unknown
  brightness := .unknown
  speed := .unknown
  out := ⟨Config.startMarker, Config.anyByte 0, Config.anyByte 1, Config.anyByte 2,
    Config.anyByte 3⟩
  draws := 4

end Sys2Proof.Machine
end

