-- ==== Sys2Proof/Machine/Operands.lean ====
section
/-! DEFINITION. The operands: the validity predicates of 00_scope.md R11, the reading of the three
input ports, and the flat views of the ports (10_state.md R22). -/

namespace Sys2Proof.Machine

/-- `VALID_LEVEL` (00_scope.md R11). -/
def validLevel (v : PortBits) : Bool :=
  decide (Config.levelMin ≤ v.toNat) && decide (v.toNat ≤ Config.levelMax)

/-- `VALID_SEL` (00_scope.md R11). -/
def validSel (k : PortBits) : Bool := decide (k.toNat ≤ 4)

/-- `VALID` (00_scope.md R11). -/
def valid (k b s : PortBits) : Bool := validSel k && validLevel b && validLevel s

/-- The value a port carries, if it carries one. -/
def PortLevel.value : PortLevel → Option PortBits
  | .unknown => none
  | .driven v => some v

/-- The word on the three input ports, when all three are driven: what stands in the place of the
current instruction (10_state.md R14, R22). -/
def State.cfg (s : State) : Option CfgWord :=
  match s.modeSel.value, s.brightness.value, s.speed.value with
  | some k, some b, some sp => some (cfgWord k b sp)
  | _, _, _ => none

/-- The instruction on the input ports; none while one of them is not driven
(70_reset_and_hazards.md R114). -/
def State.presented (s : State) : Option Instr := s.cfg.map decodeCfg

/-- The five bytes in the order of the wire (20_memory.md R27). -/
def Frame.bytes (f : Frame) : List Byte := [f.byte0, f.byte1, f.byte2, f.byte3, f.byte4]

/-- `frame_flat[39:0]` (10_state.md R22). -/
def Frame.flat (f : Frame) : FrameWord := f.byte0 ++ f.byte1 ++ f.byte2 ++ f.byte3 ++ f.byte4

/-- `frame_byte[i]`: the index selects a port (20_memory.md R33). -/
def Frame.byte (f : Frame) (i : Fin 5) : Byte :=
  match i.val with
  | 0 => f.byte0
  | 1 => f.byte1
  | 2 => f.byte2
  | 3 => f.byte3
  | _ => f.byte4

end Sys2Proof.Machine
end

