-- ==== Sys2Proof/Machine/Ops.lean ====
section
/-! DEFINITION. The sub-operations the instructions are built from, in the order of the source's four
steps: the field inverters, the mode mux, the checksum adder and the assembly, and the draw of four
bytes outside the domain.

TAKING AN EXCEPTION and returning from one have no operation here: the block raises nothing and has
no trap entry and no return (60_exceptions.md R99, R104, R105). -/

namespace Sys2Proof.Machine

/-- `INV`, range inversion: `6 - v`, an arithmetic subtraction and no complement
(40_range_inversion.md R57, R64). It is used on valid levels only (R63). -/
def inv (v : PortBits) : PortBits := Config.invK - v

/-- `INV.B`: `wire_brightness`, where the operand is in the domain (40_range_inversion.md R58, R63). -/
def brightnessInverter (b : PortBits) : Option PortBits :=
  if validLevel b then some (inv b) else none

/-- `INV.S`: `wire_speed`, where the operand is in the domain (40_range_inversion.md R59, R63). -/
def speedInverter (s : PortBits) : Option PortBits :=
  if validLevel s then some (inv s) else none

/-- `MODEMUX`, the mode table: the wire code of a mode (41_mode_mapping.md R65 to R70). -/
def code : Mode → Byte
  | .rainbow => 0x01#8
  | .breathing => 0x02#8
  | .colourCycle => 0x03#8
  | .off => 0x04#8
  | .auto => 0x05#8

/-- `raw_sum`, in `W_SUM` bits (42_checksum.md R74, R77). -/
def rawSum (modeCode wireBrightness wireSpeed : Byte) : BitVec Config.sumWidth :=
  modeCode.setWidth Config.sumWidth + wireBrightness.setWidth Config.sumWidth
    + wireSpeed.setWidth Config.sumWidth

/-- `total = raw_sum + 0xFA`, in `W_SUM` bits (42_checksum.md R74). -/
def total (modeCode wireBrightness wireSpeed : Byte) : BitVec Config.sumWidth :=
  rawSum modeCode wireBrightness wireSpeed + Config.startMarker.setWidth Config.sumWidth

/-- `CKSUM`: `total mod 256`, the low eight bits: it wraps and does not saturate (42_checksum.md R74,
R78). It is over the wire values (R76; 90_conflicts.md C1; UNVERIFIED: log entry 9). -/
def checksum (modeCode wireBrightness wireSpeed : Byte) : Byte :=
  (total modeCode wireBrightness wireSpeed).extractLsb' 0 8

/-- The internal nets that the assembly reads (10_state.md R23): wires, not state. -/
structure Nets where
  modeCode : Byte
  wireBrightness : PortBits
  wireSpeed : PortBits
  checksum : Byte
deriving DecidableEq, Repr

/-- Steps 1 to 3 of `ENCODE`: the nets, where both levels are in the domain (43_assembly.md R85). -/
def encodeNets (m : Mode) (b s : PortBits) : Option Nets :=
  match brightnessInverter b, speedInverter s with
  | some wb, some ws =>
    some ⟨code m, wb, ws, checksum (code m) (wb.setWidth 8) (ws.setWidth 8)⟩
  | _, _ => none

/-- `ASSEMBLE`: wiring only; bytes 1 to 3 are widened with zeros (43_assembly.md R84). -/
def assemble (n : Nets) : Frame :=
  ⟨Config.startMarker, n.modeCode, n.wireBrightness.setWidth 8, n.wireSpeed.setWidth 8, n.checksum⟩

/-- The output ports carry `f` (00_scope.md R10, `out.<port> <- v`). -/
def State.showFrame (s : State) (f : Frame) : State := { s with out := f }

/-- The frame of four fresh draws: byte 0 is 0xFA, the others `ANY_8` (43_assembly.md R86;
30_encoding.md R50, R51). -/
def drawnFrame (n : Nat) : Frame :=
  ⟨Config.startMarker, Config.anyByte n, Config.anyByte (n + 1), Config.anyByte (n + 2),
    Config.anyByte (n + 3)⟩

/-- The output ports carry four fresh draws beside the start marker (43_assembly.md R86;
70_reset_and_hazards.md R114, R118). No draw is used twice. DESIGN CHOICE, safe within
one run: log entry 1. -/
def State.drawOut (s : State) : State :=
  { s with out := drawnFrame s.draws, draws := s.draws + 4 }

/-- `ENCODE` with the mode fixed: the assembled frame in the valid domain (43_assembly.md R85), four
draws outside it (R86). -/
def State.encodeMode (m : Mode) (b s : PortBits) (st : State) : State :=
  match encodeNets m b s with
  | some n => st.showFrame (assemble n)
  | none => st.drawOut

end Sys2Proof.Machine
end

