-- ==== Sys2Proof/Machine/Assemble.lean ====
section
/-! DEFINITION. The row `FRAME`: the assembly of four given nets (43_assembly.md R84). DESIGN CHOICE, safe: log entry 4. -/

namespace Sys2Proof.Machine

/-- `ASSEMBLE` alone, on the operands of the row: the five output ports carry 0xFA, the three fields
widened with zeros, and the checksum (43_assembly.md R84). -/
def execFrame (m wb ws : PortBits) (c : Byte) (s : State) : Host.Outcome State Fault Refusal :=
  .next (s.showFrame (assemble ⟨m.setWidth 8, wb, ws, c⟩))

end Sys2Proof.Machine
end

