-- ==== Sys2Proof/Machine/Encode.lean ====
section
/-! DEFINITION. The family `ENC`: the one operation `ENCODE` with the mode fixed, one meaning for each
of the five mnemonics (43_assembly.md R85 to R91). -/

namespace Sys2Proof.Machine

/-- `ENC.OFF b, s` (43_assembly.md R87; out of domain R86). -/
def execEncOff (b sp : PortBits) (s : State) : Host.Outcome State Fault Refusal :=
  .next (s.encodeMode .off b sp)

/-- `ENC.AUTO b, s` (43_assembly.md R88; out of domain R86). -/
def execEncAuto (b sp : PortBits) (s : State) : Host.Outcome State Fault Refusal :=
  .next (s.encodeMode .auto b sp)

/-- `ENC.RAINBOW b, s` (43_assembly.md R89; out of domain R86). -/
def execEncRainbow (b sp : PortBits) (s : State) : Host.Outcome State Fault Refusal :=
  .next (s.encodeMode .rainbow b sp)

/-- `ENC.BREATHING b, s` (43_assembly.md R90; out of domain R86). -/
def execEncBreathing (b sp : PortBits) (s : State) : Host.Outcome State Fault Refusal :=
  .next (s.encodeMode .breathing b sp)

/-- `ENC.COLOURCYCLE b, s` (43_assembly.md R91; out of domain R86). -/
def execEncColourCycle (b sp : PortBits) (s : State) : Host.Outcome State Fault Refusal :=
  .next (s.encodeMode .colourCycle b sp)

end Sys2Proof.Machine
end

