-- ==== Sys2Proof/Machine/Reserved.lean ====
section
/-! DEFINITION. The three reserved selects, and the inputs while one of them is not driven: always out
of domain, whatever brightness and speed are (30_encoding.md R49, R50; 43_assembly.md R86;
41_mode_mapping.md R72; 60_exceptions.md R103: no field is examined before another). -/

namespace Sys2Proof.Machine

/-- `RESERVED.5`: four draws (43_assembly.md R86). -/
def execReserved5 (_b _sp : PortBits) (s : State) : Host.Outcome State Fault Refusal :=
  .next s.drawOut

/-- `RESERVED.6`: four draws (43_assembly.md R86). -/
def execReserved6 (_b _sp : PortBits) (s : State) : Host.Outcome State Fault Refusal :=
  .next s.drawOut

/-- `RESERVED.7`: four draws (43_assembly.md R86). -/
def execReserved7 (_b _sp : PortBits) (s : State) : Host.Outcome State Fault Refusal :=
  .next s.drawOut

/-- An evaluation while an input port is not driven: it counts as out of domain
(70_reset_and_hazards.md R114). -/
def execUndriven (s : State) : Host.Outcome State Fault Refusal := .next s.drawOut

end Sys2Proof.Machine
end

