-- ==== Sys2Proof/Machine/Dispatch.lean ====
section
/-! DEFINITION. The dispatcher: one arm for each row of the opcode table. -/

namespace Sys2Proof.Machine

/-- The meaning of an instruction. -/
def exec (i : Instr) (s : State) : Host.Outcome State Fault Refusal :=
  match i with
  | .encOff b sp => Sys2Proof.Machine.execEncOff b sp s
  | .encAuto b sp => Sys2Proof.Machine.execEncAuto b sp s
  | .encRainbow b sp => Sys2Proof.Machine.execEncRainbow b sp s
  | .encBreathing b sp => Sys2Proof.Machine.execEncBreathing b sp s
  | .encColourCycle b sp => Sys2Proof.Machine.execEncColourCycle b sp s
  | .reserved5 b sp => Sys2Proof.Machine.execReserved5 b sp s
  | .reserved6 b sp => Sys2Proof.Machine.execReserved6 b sp s
  | .reserved7 b sp => Sys2Proof.Machine.execReserved7 b sp s
  | .frame m wb ws c => Sys2Proof.Machine.execFrame m wb ws c s

end Sys2Proof.Machine
end

