-- ==== Sys2Proof/Machine/Ports.lean ====
section
/-! DEFINITION. What the two parties around the block can do at its ports (70_reset_and_hazards.md
R129): the producer drives inputs, the consumer samples outputs; and the way back from a frame to
its configuration (43_assembly.md R95), which the block does not contain. -/

namespace Sys2Proof.Machine

/-- A move of the producer: any port alone, or all three together, to any level
(70_reset_and_hazards.md R116, R129). -/
inductive ProducerMove
  /-- drive `in.mode_sel` -/
  | modeSel (level : PortLevel)
  /-- drive `in.brightness` -/
  | brightness (level : PortLevel)
  /-- drive `in.speed` -/
  | speed (level : PortLevel)
  /-- drive all three inputs at once -/
  | config (k b s : PortBits)
deriving DecidableEq, Repr

/-- The three inputs carry these values; nothing else changes. -/
def State.presentConfig (k b sp : PortBits) (s : State) : State :=
  { s with modeSel := .driven k, brightness := .driven b, speed := .driven sp }

/-- No input is driven; nothing else changes. -/
def State.releaseInputs (s : State) : State :=
  { s with modeSel := .unknown, brightness := .unknown, speed := .unknown }

/-- The input ports after a move; nothing else changes. -/
def State.setPorts (s : State) : ProducerMove → State
  | .modeSel l => { s with modeSel := l }
  | .brightness l => { s with brightness := l }
  | .speed l => { s with speed := l }
  | .config k b sp => s.presentConfig k b sp

/-- The move leaves all three ports at the levels they have: no input bit changes. -/
def State.unchangedBy (s : State) (m : ProducerMove) : Bool := s.setPorts m == s

/-- The producer drives: after any change of an input, bytes 1 to 4 are any values until the block has
settled, and byte 0 stays 0xFA (70_reset_and_hazards.md R118); driving the same levels again changes
nothing (20_memory.md R32). DEDUCED, safe: log entry 8. -/
def State.drive (s : State) (m : ProducerMove) : State :=
  if s.unchangedBy m then s else (s.setPorts m).drawOut

/-- The consumer reads one output port; it has no effect on the block (20_memory.md R30, R32). -/
def State.sample (s : State) (i : Fin 5) : Byte := s.out.byte i

/-- The mode of a wire code (41_mode_mapping.md R73, the inverse of the table). -/
def modeOfCode (c : Byte) : Option Mode :=
  match c.toNat with
  | 1 => some .rainbow
  | 2 => some .breathing
  | 3 => some .colourCycle
  | 4 => some .off
  | 5 => some .auto
  | _ => none

/-- The configuration of a frame of the valid image, none for any other frame
(43_assembly.md R95; 30_encoding.md R53). For test benches: the block does not contain it. -/
def recoverConfig (f : Frame) : Option (PortBits × PortBits × PortBits) :=
  match modeOfCode f.byte1 with
  | none => none
  | some m =>
    let b := (6#8 - f.byte2).setWidth 3
    let sp := (6#8 - f.byte3).setWidth 3
    match encodeNets m b sp with
    | none => none
    | some n => if assemble n = f then some (Sys2Proof.modeSel m, b, sp) else none

/-- The inputs for which a row of the opcode table is what the block evaluates next. A configuration
word is driven on the ports. A `FRAME` is no input: the inputs are those whose frame it is (43_assembly.md
R95), and where there are none, no input is driven (30_encoding.md R53). DESIGN CHOICE, safe: log entry 4. -/
def State.presentInstr (s : State) : Instr → State
  | .encOff b sp => s.presentConfig (Sys2Proof.modeSel .off) b sp
  | .encAuto b sp => s.presentConfig (Sys2Proof.modeSel .auto) b sp
  | .encRainbow b sp => s.presentConfig (Sys2Proof.modeSel .rainbow) b sp
  | .encBreathing b sp => s.presentConfig (Sys2Proof.modeSel .breathing) b sp
  | .encColourCycle b sp => s.presentConfig (Sys2Proof.modeSel .colourCycle) b sp
  | .reserved5 b sp => s.presentConfig 5#3 b sp
  | .reserved6 b sp => s.presentConfig 6#3 b sp
  | .reserved7 b sp => s.presentConfig 7#3 b sp
  | .frame m wb ws c =>
    match recoverConfig (assemble ⟨m.setWidth 8, wb, ws, c⟩) with
    | some (k, b, sp) => s.presentConfig k b sp
    | none => s.releaseInputs

/-- The same for a word numbered as the opcode table numbers it; a word of neither format leaves the
state as it is. -/
def State.presentTableWord (s : State) (nbits w : Nat) : State :=
  match decodeTableWord nbits w with
  | some i => s.presentInstr i
  | none => s

end Sys2Proof.Machine
end

