-- ==== Sys2Proof/Machine/Step.lean ====
section
/-! DEFINITION. The one step: one settled sample (70_reset_and_hazards.md R130). -/

namespace Sys2Proof.Machine

/-- `T_PD` passes with no input change: the outputs become the function of the inputs
(20_memory.md R35; 43_assembly.md R85, R86). The instruction is the word on the input ports
(10_state.md R14); nothing is fetched and nothing advances. DEDUCED, safe: log entry 5. -/
def step (s : State) : Host.Outcome State Fault Refusal :=
  match s.presented with
  | some i => Sys2Proof.Machine.exec i s
  | none => Sys2Proof.Machine.execUndriven s

/-- The inputs carry the word, so that the next step evaluates it. DESIGN CHOICE, safe: log entry 4. -/
def State.withFetchWord (s : State) (nbits w : Nat) : State := s.presentTableWord nbits w

end Sys2Proof.Machine
end

