-- ==== Sys2Proof/Machine/Emission.lean ====
section
/-! DEFINITION. What the consumer owes the peripheral when it emits a captured frame
(70_reset_and_hazards.md R120 to R125, R127). The emission loop and the transport are OUTSIDE the block
(00_scope.md R4); this file says their duties as a predicate on the writes and gives one loop that
keeps them, and no instruction reads it. DESIGN CHOICE, safe: log entry 7. -/

namespace Sys2Proof.Machine

/-- One write of one byte to the transport: the byte, when it starts, when it ends, and whether it
succeeded (70_reset_and_hazards.md R120, R124). -/
structure ByteWrite where
  value : Byte
  start : Nat
  finish : Nat
  ok : Bool
deriving DecidableEq, Repr

/-- A write blocks until it ends, within the transport's time limit (70_reset_and_hazards.md R124). -/
def ByteWrite.bounded (w : ByteWrite) : Prop :=
  w.start ≤ w.finish ∧ w.finish ≤ w.start + Config.writeTimeout

/-- The writes follow one another at least `T_INTERBYTE` apart (70_reset_and_hazards.md R121), each
within its time limit, and none follows a failed one: no retry (R123). -/
def wellPaced : List ByteWrite → Prop
  | [] => True
  | [w] => w.bounded
  | w :: v :: rest =>
    w.bounded ∧ w.ok = true ∧ w.finish + Config.interByteDelay ≤ v.start ∧ wellPaced (v :: rest)

/-- The writes are an emission of the frame up to some moment, ended or still going on: its bytes one by
one in the order 0 to 4 (70_reset_and_hazards.md R120), well paced. -/
def emissionSoFar (f : Frame) (ws : List ByteWrite) : Prop :=
  ws.length ≤ 5 ∧ ws.map ByteWrite.value = f.bytes.take ws.length ∧ wellPaced ws

/-- All five bytes are written, or the operation has failed (70_reset_and_hazards.md R122, R123). -/
def frameSent (ws : List ByteWrite) : Bool := ws.length == 5 && ws.all ByteWrite.ok

/-- The last write failed, and with it the operation (70_reset_and_hazards.md R123). -/
def emissionFailed (ws : List ByteWrite) : Bool :=
  match ws.getLast? with
  | some w => !w.ok
  | none => false

/-- The writes are a whole emission of the frame: it has ended, and in one of the two ways there are, all
five bytes written or a failed write. There is no partial success and no early abort
(70_reset_and_hazards.md R123: "no cancellation semantics"). -/
def emissionOf (f : Frame) (ws : List ByteWrite) : Prop :=
  emissionSoFar f ws ∧ (frameSent ws = true ∨ emissionFailed ws = true)

/-- One emission loop: it writes a byte when the gap after the one before has passed, and stops after the
last byte or at the first write that fails or outlasts the time limit, and nowhere else
(70_reset_and_hazards.md R123). The transport's answers say how long each write takes and whether it
succeeds; a write that gets no answer blocks until the time limit and fails (R124). -/
def emitBytes (now : Nat) : List Byte → List (Nat × Bool) → List ByteWrite
  | [], _ => []
  | v :: _, [] => [⟨v, now, now + Config.writeTimeout, false⟩]
  | v :: vs, (time, good) :: answers =>
    if time ≤ Config.writeTimeout ∧ good = true then
      ⟨v, now, now + time, true⟩ :: emitBytes (now + time + Config.interByteDelay) vs answers
    else [⟨v, now, now + min time Config.writeTimeout, false⟩]

end Sys2Proof.Machine
end

