-- ==== Sys2Proof/Machine/Flags.lean ====
section
/-! DEFINITION. The block has no flag and no operation has a flag side effect (10_state.md R15). The one
carry its arithmetic makes, out of bit 7 of the checksum sum, is dropped and not exported; it is
defined here for what 42_checksum.md R78 says of it, and no state holds it. -/

namespace Sys2Proof.Machine

/-- The sum passes 255, so that the checksum wraps (42_checksum.md R78). Read by no instruction. -/
def checksumWraps (modeCode wireBrightness wireSpeed : Byte) : Bool :=
  decide (256 ≤ (total modeCode wireBrightness wireSpeed).toNat)

end Sys2Proof.Machine
end

