-- ==== Sys2Proof/Machine/Spelling.lean ====
section
/-! DEFINITION. The textual forms of 30_encoding.md R55: how the spec writes a configuration, one with a
reserved field, and a frame. DESIGN CHOICE (capital hexadecimal
digits, and the name for a valid select whose level is out of range), safe: log entry 12. -/

namespace Sys2Proof.Machine

/-- The decimal digit of a three-bit value. -/
def levelDigit (v : PortBits) : String :=
  match v.toNat with
  | 0 => "0" | 1 => "1" | 2 => "2" | 3 => "3" | 4 => "4" | 5 => "5" | 6 => "6" | _ => "7"

/-- The hexadecimal digit of a four-bit value. -/
def hexDigit (v : Nat) : String :=
  match v with
  | 0 => "0" | 1 => "1" | 2 => "2" | 3 => "3" | 4 => "4" | 5 => "5" | 6 => "6" | 7 => "7"
  | 8 => "8" | 9 => "9" | 10 => "A" | 11 => "B" | 12 => "C" | 13 => "D" | 14 => "E" | _ => "F"

/-- Two hexadecimal digits. -/
def byteText (b : Byte) : String := hexDigit (b.toNat / 16) ++ hexDigit (b.toNat % 16)

/-- A mnemonic and its two user-facing operands. -/
def configText (head : String) (b s : PortBits) : String :=
  head ++ " " ++ levelDigit b ++ ", " ++ levelDigit s

/-- A frame as five hexadecimal bytes, byte 0 first (30_encoding.md R55). -/
def Frame.text (f : Frame) : String :=
  byteText f.byte0 ++ " " ++ byteText f.byte1 ++ " " ++ byteText f.byte2 ++ " " ++ byteText f.byte3
    ++ " " ++ byteText f.byte4

/-- The text of an instruction (30_encoding.md R55, R56): a reserved select by its number, a valid select
by its mode's name, with a level out of range too (`ENC.OFF 0, 3`). R55 and 95_test_vectors.md section 6
leave that last spelling open (`ENC.#0 0, 0`): DESIGN CHOICE, safe, log entry 12. -/
def instrText : Instr → String
  | .encOff b s => configText "ENC.OFF" b s
  | .encAuto b s => configText "ENC.AUTO" b s
  | .encRainbow b s => configText "ENC.RAINBOW" b s
  | .encBreathing b s => configText "ENC.BREATHING" b s
  | .encColourCycle b s => configText "ENC.COLOURCYCLE" b s
  | .reserved5 b s => configText "ENC.#5" b s
  | .reserved6 b s => configText "ENC.#6" b s
  | .reserved7 b s => configText "ENC.#7" b s
  | .frame m b s c =>
    Frame.text ⟨Config.startMarker, m.setWidth 8, b.setWidth 8, s.setWidth 8, c⟩

end Sys2Proof.Machine
end

