-- ==== Sys2Proof/Machine/System.lean ====
section
/-! DEFINITION. The block between its producer and its consumer, in time: the timing contract at the
block's boundary (20_memory.md R31, R32, R35, R38; 70_reset_and_hazards.md R114, R116, R118, R119,
R129). The elapsed time is the environment's, no state of the block. DEDUCED, safe: log entry 6. -/

namespace Sys2Proof.Machine

/-- The block and how long its inputs have been stable, in the time units of `Config.settleTime`. -/
structure System where
  block : State
  stableFor : Nat
deriving DecidableEq, Repr

/-- What can happen at the ports (70_reset_and_hazards.md R129). -/
inductive Event
  /-- the producer drives one input or all three -/
  | drive (move : ProducerMove)
  /-- time passes with no input change -/
  | wait (time : Nat)
  /-- the consumer samples one output port -/
  | sample (port : Fin 5)
deriving DecidableEq, Repr

/-- The settled block (one `step`; no step of this model stops). -/
def State.settle (s : State) : State :=
  match step s with
  | .next t => t
  | .fault _ => s
  | .refused _ => s

/-- At power-up no input is driven and no time has passed (70_reset_and_hazards.md R114). -/
def System.powerUp : System := ⟨State.reset, 0⟩

/-- One event. A change of an input starts the settling time again; once the inputs have been stable for
`T_PD` the outputs are the settled ones, before that any values beside the start marker
(20_memory.md R35; 70_reset_and_hazards.md R118). A sample has no effect (20_memory.md R32). -/
def System.apply (y : System) : Event → System
  | .drive m => if y.block.unchangedBy m then y else ⟨y.block.drive m, 0⟩
  | .wait t =>
    if Config.settleTime ≤ y.stableFor + t then ⟨y.block.settle, y.stableFor + t⟩
    else ⟨y.block.drawOut, y.stableFor + t⟩
  | .sample _ => y

/-- A run of events, the first of the list first. -/
def System.run (y : System) : List Event → System
  | [] => y
  | e :: es => (y.apply e).run es

/-- The bytes the consumer takes on the way, each with the port it was sampled from
(70_reset_and_hazards.md R119, R120). -/
def System.taken (y : System) : List Event → List (Fin 5 × Byte)
  | [] => []
  | .sample i :: es => (i, y.block.sample i) :: y.taken es
  | .drive m :: es => (y.apply (.drive m)).taken es
  | .wait t :: es => (y.apply (.wait t)).taken es

end Sys2Proof.Machine
end

