-- ==== Sys2Proof/Safety.lean ====
section
/-! DEFINITION. The terms the claims use: the function and the relation of 00_scope.md R12, written over
numbers and apart from the nets of the machine, and what a coherent state and a well-behaved
environment are. -/

namespace Sys2Proof.Machine

/-- A level, 1 to 5 (00_scope.md R11). -/
structure Level where
  val : Nat
  inRange : 1 ≤ val ∧ val ≤ 5
deriving DecidableEq, Repr

/-- The port value of a level (30_encoding.md R44: no offset, no scaling). -/
def Level.bits (l : Level) : PortBits := BitVec.ofNat 3 l.val

/-- The frame of a mode and two levels, in the five lines of 00_scope.md R2, over numbers. It is read at
levels 1 to 5 only. -/
def frameOf (m : Mode) (b s : Nat) : Frame where
  byte0 := 0xFA#8
  byte1 := code m
  byte2 := BitVec.ofNat 8 (6 - b)
  byte3 := BitVec.ofNat 8 (6 - s)
  byte4 := BitVec.ofNat 8 ((0xFA + (code m).toNat + (6 - b) + (6 - s)) % 256)

/-- `encode : Mode x Level x Level -> Frame` (00_scope.md R12). -/
def encodeConfig (m : Mode) (b s : Level) : Frame := frameOf m b.val s.val

/-- The relation `ENC(k, b, s, frame)` between the nine input bits and the forty output bits
(00_scope.md R12). -/
def Enc (k b s : PortBits) (f : Frame) : Prop :=
  if valid k b s then ∃ m, modeOf k = some m ∧ f = frameOf m b.toNat s.toNat
  else f.byte0 = 0xFA#8

/-- The outputs are the ones the inputs ask for: `ENC` where all three ports are driven, else byte 0 is
the start marker (00_scope.md R12; 70_reset_and_hazards.md R114). A settled sample is coherent. -/
def State.Coherent (s : State) : Prop :=
  match s.modeSel, s.brightness, s.speed with
  | .driven k, .driven b, .driven sp => Enc k b sp s.out
  | _, _, _ => s.out.byte0 = 0xFA#8

/-- The three ports are driven with a configuration of the valid domain: the producer's duty
(70_reset_and_hazards.md R117). -/
def State.Valid (s : State) : Prop :=
  ∃ k b sp, s.modeSel = .driven k ∧ s.brightness = .driven b ∧ s.speed = .driven sp ∧
    valid k b sp = true

/-- The two states carry the same levels on their input ports. -/
def State.SameInputs (s t : State) : Prop :=
  s.modeSel = t.modeSel ∧ s.brightness = t.brightness ∧ s.speed = t.speed

/-- What every moment of a run keeps: byte 0 is the start marker (30_encoding.md R51), and once the
inputs have been stable for `T_PD` the outputs are coherent (20_memory.md R35). -/
def System.Inv (y : System) : Prop :=
  y.block.out.byte0 = 0xFA#8 ∧ (Config.settleTime ≤ y.stableFor → y.block.Coherent)

/-- The producer holds its inputs: nothing is driven, time passes and the consumer samples
(70_reset_and_hazards.md R119, its first form). -/
def Event.holds : Event → Bool
  | .drive _ => false
  | .wait _ => true
  | .sample _ => true

/-- The self-check of a frame (42_checksum.md R83). -/
def Frame.selfCheck (f : Frame) : Bool :=
  f.byte4.toNat == (f.byte0.toNat + f.byte1.toNat + f.byte2.toNat + f.byte3.toNat) % 256

end Sys2Proof.Machine
end

