-- ==== Sys2Proof/Certificates/Slice0/Obligations.lean ====
section
/-! DEFINITION. The statements for the provers. -/

open Sys2Proof Sys2Proof.Machine

/- ## Encoding -/

/-- Every instruction is read back from its encoding, with every operand at every value (30_encoding.md
R41, R42, R48). The order of the two bytes of a `CFG` word, and reading a FRAME by its pattern alone, are the
model's, log entries 3 and 11. -/
def Obligations.DecodeReadsBackEncode : Prop :=
  ∀ i : Instr, decode (encode i) = .ok i

/-- Each list of bytes the decoder accepts is the encoding of what it reads: no bit is ignored
(30_encoding.md R40 to R42, R54). The byte form of a `CFG` word, and reading a FRAME by its pattern alone,
are the model's, log entries 3 and 11. -/
def Obligations.EncodeWritesBackDecode : Prop :=
  ∀ (bytes : List Byte) (i : Instr), decode bytes = .ok i → encode i = bytes

/-- What is no word of the two formats is rejected by name (30_encoding.md R40, R42). The check of the
second byte of a `CFG` word, and reading a FRAME by its pattern alone, are the model's, log entries 3
and 11. -/
def Obligations.DecodeRejectsByName : Prop :=
  (∀ bytes : List Byte, bytes.length ≠ 2 → bytes.length ≠ 5 →
    decode bytes = .error .noSuchLength) ∧
  (∀ lo hi : Byte, 2 ≤ hi.toNat → decode [lo, hi] = .error .bitAboveCfg) ∧
  (∀ b0 b1 b2 b3 b4 : Byte, b0 ≠ 0xFA#8 →
    decode [b0, b1, b2, b3, b4] = .error .noStartMarker) ∧
  (∀ b1 b2 b3 b4 : Byte, 8 ≤ b1.toNat ∨ 8 ≤ b2.toNat ∨ 8 ≤ b3.toNat →
    decode [0xFA#8, b1, b2, b3, b4] = .error .frameHighBits)

/-- The map of 30_encoding.md R48: under the mask `0x1C0` a word has a row's value exactly where the
decoder reads that row's instruction, and its operands are the fields `bbb` and `sss` of the word. -/
def Obligations.OpcodeMapMatchesDecoder : Prop :=
  (∀ (w : CfgWord) (r : CfgRow), r ∈ cfgRows →
    (w &&& 0x1C0#9 = r.value ↔ (decodeCfg w).mnemonic = r.mnemonic)) ∧
  (∀ w : CfgWord,
    w.toNat = 64 * (cfgModeSel w).toNat + 8 * (cfgBrightness w).toNat + (cfgSpeed w).toNat ∧
    ∃ k, decodeCfg w = instrOfFields k (cfgBrightness w) (cfgSpeed w) ∧ k.toNat = w.toNat / 64)

/-- Words written out from 30_encoding.md R48 and R42 decode to their instructions. -/
def Obligations.WrittenOutWordsDecode : Prop :=
  decodeTableWord 16 0b000_001_001 = some (.encOff 1#3 1#3) ∧
  decodeTableWord 16 0b001_011_011 = some (.encAuto 3#3 3#3) ∧
  decodeTableWord 16 0b010_001_100 = some (.encRainbow 1#3 4#3) ∧
  decodeTableWord 16 0b011_101_100 = some (.encBreathing 5#3 4#3) ∧
  decodeTableWord 16 0b100_101_001 = some (.encColourCycle 5#3 1#3) ∧
  decodeTableWord 16 0b101_001_001 = some (.reserved5 1#3 1#3) ∧
  decodeTableWord 16 0b110_011_011 = some (.reserved6 3#3 3#3) ∧
  decodeTableWord 16 0b111_111_111 = some (.reserved7 7#3 7#3) ∧
  decodeTableWord 40 0xFA01050202 = some (.frame 1#3 5#3 2#3 0x02#8)

/-- The select at the port: `mode_of` and the code it leads to (41_mode_mapping.md R71). -/
def Obligations.ModeSelectTable : Prop :=
  modeOf 0#3 = some .off ∧ modeOf 1#3 = some .auto ∧ modeOf 2#3 = some .rainbow ∧
  modeOf 3#3 = some .breathing ∧ modeOf 4#3 = some .colourCycle ∧
  modeOf 5#3 = none ∧ modeOf 6#3 = none ∧ modeOf 7#3 = none ∧
  (modeOf 0#3).map code = some 0x04#8 ∧ (modeOf 1#3).map code = some 0x05#8 ∧
  (modeOf 2#3).map code = some 0x01#8 ∧ (modeOf 3#3).map code = some 0x02#8 ∧
  (modeOf 4#3).map code = some 0x03#8 ∧
  ∀ k : PortBits, validSel k = true →
    (modeOf k).map (fun m => (code m).toNat) = some ((k.toNat + 3) % 5 + 1)

/-- The mode table is injective and its image is exactly 1 to 5 (41_mode_mapping.md R65, R73). -/
def Obligations.ModeCodesInjectiveOntoOneToFive : Prop :=
  code .rainbow = 0x01#8 ∧ code .breathing = 0x02#8 ∧ code .colourCycle = 0x03#8 ∧
  code .off = 0x04#8 ∧ code .auto = 0x05#8 ∧
  (∀ m n : Mode, code m = code n → m = n) ∧
  (∀ c : Byte, (∃ m, code m = c) ↔ 1 ≤ c.toNat ∧ c.toNat ≤ 5)

/-- The two flat views (10_state.md R22): the configuration word from its three fields, and the forty
bits with byte 0 in the top eight. -/
def Obligations.FlatViewsOfThePorts : Prop :=
  (∀ k b s : PortBits, (cfgWord k b s).toNat = 64 * k.toNat + 8 * b.toNat + s.toNat) ∧
  (∀ f : Frame, f.flat.extractLsb' 32 8 = f.byte0 ∧ f.flat.extractLsb' 24 8 = f.byte1 ∧
    f.flat.extractLsb' 16 8 = f.byte2 ∧ f.flat.extractLsb' 8 8 = f.byte3 ∧
    f.flat.extractLsb' 0 8 = f.byte4) ∧
  (Frame.flat ⟨0xFA#8, 0x01#8, 0x05#8, 0x05#8, 0x05#8⟩).toNat = 0xFA01050505

/- ## The sub-operations -/

/-- `INV(v) = 6 - v`, the complete table on its domain (40_range_inversion.md R57). -/
def Obligations.RangeInversionTable : Prop :=
  (∀ v : PortBits, validLevel v = true →
    (inv v).toNat = 6 - v.toNat ∧ inv v = ~~~v - 1#3) ∧
  inv 1#3 = 5#3 ∧ inv 2#3 = 4#3 ∧ inv 3#3 = 3#3 ∧ inv 4#3 = 2#3 ∧ inv 5#3 = 1#3

/-- `INV` maps the levels onto the levels, reverses their order and is its own inverse
(40_range_inversion.md R60, R61). -/
def Obligations.RangeInversionLaws : Prop :=
  (∀ v : PortBits, validLevel v = true → validLevel (inv v) = true ∧ inv (inv v) = v) ∧
  (∀ u v : PortBits, validLevel u = true → validLevel v = true →
    (u.toNat < v.toNat ↔ (inv v).toNat < (inv u).toNat)) ∧
  (∀ w : PortBits, validLevel w = true → ∃ v, validLevel v = true ∧ inv v = w)

/-- `CKSUM` of any three byte values is the sum with 0xFA modulo 256; `raw_sum` and `total` do not wrap
in the reference width (42_checksum.md R74). -/
def Obligations.ChecksumIsTheSumModulo256 : Prop :=
  ∀ mc wb ws : Byte,
    (rawSum mc wb ws).toNat = mc.toNat + wb.toNat + ws.toNat ∧
    (total mc wb ws).toNat = mc.toNat + wb.toNat + ws.toNat + 0xFA ∧
    (checksum mc wb ws).toNat = (mc.toNat + wb.toNat + ws.toNat + 0xFA) % 256

/-- The three facts of 42_checksum.md R77: 9 bits hold the total of the valid domain, 10 bits the total of
any three bytes, and every width of 8 or more, with the carries dropped, gives the same checksum. -/
def Obligations.ChecksumDoesNotDependOnTheWidth : Prop :=
  ∀ mc wb ws : Byte,
    (mc.toNat ≤ 5 → wb.toNat ≤ 5 → ws.toNat ≤ 5 → (total mc wb ws).toNat ≤ 265) ∧
    (total mc wb ws).toNat ≤ 1015 ∧
    ∀ width : Nat, 8 ≤ width →
      (((0xFA#8).setWidth width + mc.setWidth width + wb.setWidth width + ws.setWidth width).setWidth
        8 : Byte) = checksum mc wb ws

/-- In the valid domain `raw_sum` is 3 to 15, the sum wraps exactly from 6 on, and the checksum has the
closed form of 42_checksum.md R79 (R78: it wraps and never saturates). -/
def Obligations.ChecksumClosedFormInDomain : Prop :=
  ∀ (m : Mode) (b sp : PortBits), validLevel b = true → validLevel sp = true →
    let wb : Byte := (inv b).setWidth 8
    let ws : Byte := (inv sp).setWidth 8
    let raw := (rawSum (code m) wb ws).toNat
    3 ≤ raw ∧ raw ≤ 15 ∧ (checksumWraps (code m) wb ws = true ↔ 6 ≤ raw) ∧
      (raw ≤ 5 → (checksum (code m) wb ws).toNat = raw + 250) ∧
      (6 ≤ raw → (checksum (code m) wb ws).toNat = raw - 6)

/-- Of the 512 values of the nine input bits 125 are valid and 387 are not, 192 for each field at fault
(00_scope.md R11; 30_encoding.md R49); and each of the thirteen checksums of 42_checksum.md R80 comes from
as many valid configurations as its table says. -/
def Obligations.DomainAndChecksumCounts : Prop :=
  let ports : List PortBits := [0#3, 1#3, 2#3, 3#3, 4#3, 5#3, 6#3, 7#3]
  let words := ports.flatMap fun k => ports.flatMap fun b => ports.map fun sp => (k, b, sp)
  let sums := (words.filter fun w => valid w.1 w.2.1 w.2.2).map fun w =>
    (modeOf w.1).map fun m => (checksum (code m) ((inv w.2.1).setWidth 8)
      ((inv w.2.2).setWidth 8)).toNat
  words.length = 512 ∧ sums.length = 125 ∧
  (words.filter fun w => !valid w.1 w.2.1 w.2.2).length = 387 ∧
  (words.filter fun w => !validSel w.1).length = 192 ∧
  (words.filter fun w => !validLevel w.2.1).length = 192 ∧
  (words.filter fun w => !validLevel w.2.2).length = 192 ∧
  [0xFD, 0xFE, 0xFF, 0, 1, 2, 3, 4, 5, 6, 7, 8, 9].map (fun c => sums.count (some c)) =
    [1, 3, 6, 10, 15, 18, 19, 18, 15, 10, 6, 3, 1]

/- ## The step and the fetch -/

/-- A step evaluates the instruction that the three driven ports stand for, and adds nothing around it;
while a port is not driven it draws the four bytes (10_state.md R14; 70_reset_and_hazards.md R114). That a
step is one settled sample and that the draws are numbered is the model's, log entries 5 and 1. -/
def Obligations.StepRunsThePresentedInstruction : Prop :=
  (∀ (s : State) (k b sp : PortBits) (i : Instr),
    s.modeSel = .driven k → s.brightness = .driven b → s.speed = .driven sp →
    decode (cfgBytes (cfgWord k b sp)) = .ok i → step s = exec i s) ∧
  (∀ s : State, s.modeSel = .unknown ∨ s.brightness = .unknown ∨ s.speed = .unknown →
    step s = .next { s with out := drawnFrame s.draws, draws := s.draws + 4 })

/-- A word of the opcode table, placed for the next step, is decoded and evaluated by it, and placing it
leaves outputs and draws as they are. For a `FRAME` the inputs are those whose frame it is, exec of it is
ASSEMBLE, and well-formed means a valid frame: the model's choices, log entries 4 and 11. -/
def Obligations.PlacedWordRunsNext : Prop :=
  (∀ (s : State) (w : Nat), w < 512 → ∃ i,
    decodeTableWord 16 w = some i ∧
    step (s.withFetchWord 16 w) = exec i (s.withFetchWord 16 w) ∧
    (s.withFetchWord 16 w).out = s.out ∧ (s.withFetchWord 16 w).draws = s.draws) ∧
  (∀ (s : State) (m wb ws : PortBits) (c : Byte), WellFormed (.frame m wb ws c) = true →
    let w := (Frame.flat ⟨0xFA#8, m.setWidth 8, wb.setWidth 8, ws.setWidth 8, c⟩).toNat
    decodeTableWord 40 w = some (.frame m wb ws c) ∧
    step (s.withFetchWord 40 w) = exec (.frame m wb ws c) (s.withFetchWord 40 w) ∧
    (s.withFetchWord 40 w).out = s.out ∧ (s.withFetchWord 40 w).draws = s.draws)

/- ## The instructions -/

/-- `ENC.OFF` on valid levels: its encoding, its frame, and the range of its total (43_assembly.md R87).
Nothing but the output ports changes. -/
def Obligations.EncOffGivesItsFrame : Prop :=
  ∀ (b sp : PortBits) (s : State), validLevel b = true → validLevel sp = true →
    decodeCfg (0b000#3 ++ b ++ sp) = .encOff b sp ∧
    exec (.encOff b sp) s = .next { s with
      out := ⟨0xFA#8, 0x04#8, BitVec.ofNat 8 (6 - b.toNat), BitVec.ofNat 8 (6 - sp.toNat),
        BitVec.ofNat 8 (10 - b.toNat - sp.toNat)⟩ } ∧
    b.toNat + sp.toNat ≤ 10 ∧ 10 - b.toNat - sp.toNat ≤ 8 ∧
    256 ≤ (total 0x04#8 (BitVec.ofNat 8 (6 - b.toNat)) (BitVec.ofNat 8 (6 - sp.toNat))).toNat ∧
    (total 0x04#8 (BitVec.ofNat 8 (6 - b.toNat)) (BitVec.ofNat 8 (6 - sp.toNat))).toNat ≤ 264

/-- `ENC.AUTO` on valid levels: its encoding, its frame, and the range of its total (43_assembly.md R88).
Nothing but the output ports changes. -/
def Obligations.EncAutoGivesItsFrame : Prop :=
  ∀ (b sp : PortBits) (s : State), validLevel b = true → validLevel sp = true →
    decodeCfg (0b001#3 ++ b ++ sp) = .encAuto b sp ∧
    exec (.encAuto b sp) s = .next { s with
      out := ⟨0xFA#8, 0x05#8, BitVec.ofNat 8 (6 - b.toNat), BitVec.ofNat 8 (6 - sp.toNat),
        BitVec.ofNat 8 (11 - b.toNat - sp.toNat)⟩ } ∧
    1 ≤ 11 - b.toNat - sp.toNat ∧ 11 - b.toNat - sp.toNat ≤ 9 ∧
    257 ≤ (total 0x05#8 (BitVec.ofNat 8 (6 - b.toNat)) (BitVec.ofNat 8 (6 - sp.toNat))).toNat ∧
    (total 0x05#8 (BitVec.ofNat 8 (6 - b.toNat)) (BitVec.ofNat 8 (6 - sp.toNat))).toNat ≤ 265

/-- `ENC.RAINBOW` on valid levels: its encoding, its frame, and byte 4 in its two cases with the total in
each (43_assembly.md R89). Nothing but the output ports changes. -/
def Obligations.EncRainbowGivesItsFrame : Prop :=
  ∀ (b sp : PortBits) (s : State), validLevel b = true → validLevel sp = true →
    let byte4 : Byte := BitVec.ofInt 8 (7 - (b.toNat : Int) - (sp.toNat : Int))
    let sum := (total 0x01#8 (BitVec.ofNat 8 (6 - b.toNat)) (BitVec.ofNat 8 (6 - sp.toNat))).toNat
    decodeCfg (0b010#3 ++ b ++ sp) = .encRainbow b sp ∧
    exec (.encRainbow b sp) s = .next { s with
      out := ⟨0xFA#8, 0x01#8, BitVec.ofNat 8 (6 - b.toNat), BitVec.ofNat 8 (6 - sp.toNat), byte4⟩ } ∧
    (b.toNat + sp.toNat ≤ 7 →
      byte4.toNat = 7 - b.toNat - sp.toNat ∧ byte4.toNat ≤ 5 ∧ 256 ≤ sum ∧ sum ≤ 261) ∧
    (8 ≤ b.toNat + sp.toNat →
      byte4.toNat = 263 - b.toNat - sp.toNat ∧ 0xFD ≤ byte4.toNat ∧ 253 ≤ sum ∧ sum ≤ 255)

/-- `ENC.BREATHING` on valid levels: its encoding, its frame, and byte 4 in its two cases
(43_assembly.md R90). Nothing but the output ports changes. -/
def Obligations.EncBreathingGivesItsFrame : Prop :=
  ∀ (b sp : PortBits) (s : State), validLevel b = true → validLevel sp = true →
    let byte4 : Byte := BitVec.ofInt 8 (8 - (b.toNat : Int) - (sp.toNat : Int))
    decodeCfg (0b011#3 ++ b ++ sp) = .encBreathing b sp ∧
    exec (.encBreathing b sp) s = .next { s with
      out := ⟨0xFA#8, 0x02#8, BitVec.ofNat 8 (6 - b.toNat), BitVec.ofNat 8 (6 - sp.toNat), byte4⟩ } ∧
    (b.toNat + sp.toNat ≤ 8 → byte4.toNat = 8 - b.toNat - sp.toNat ∧ byte4.toNat ≤ 6) ∧
    (9 ≤ b.toNat + sp.toNat → byte4.toNat = 264 - b.toNat - sp.toNat) ∧
    (b.toNat + sp.toNat = 9 → byte4 = 0xFF#8) ∧ (b.toNat + sp.toNat = 10 → byte4 = 0xFE#8)

/-- `ENC.COLOURCYCLE` on valid levels: its encoding, its frame, and byte 4 in its two cases
(43_assembly.md R91). Nothing but the output ports changes. -/
def Obligations.EncColourCycleGivesItsFrame : Prop :=
  ∀ (b sp : PortBits) (s : State), validLevel b = true → validLevel sp = true →
    let byte4 : Byte := BitVec.ofInt 8 (9 - (b.toNat : Int) - (sp.toNat : Int))
    decodeCfg (0b100#3 ++ b ++ sp) = .encColourCycle b sp ∧
    exec (.encColourCycle b sp) s = .next { s with
      out := ⟨0xFA#8, 0x03#8, BitVec.ofNat 8 (6 - b.toNat), BitVec.ofNat 8 (6 - sp.toNat), byte4⟩ } ∧
    (b.toNat + sp.toNat ≤ 9 → byte4.toNat = 9 - b.toNat - sp.toNat ∧ byte4.toNat ≤ 7) ∧
    (b.toNat + sp.toNat = 10 → byte4 = 0xFF#8 ∧ b = 5#3 ∧ sp = 5#3)

/-- The five `ENC` forms with a level out of range run too: byte 0 is 0xFA, the other four bytes are the
next four draws, whatever the mode and whichever level is at fault, and nothing else changes but the
count of draws (30_encoding.md R50, R51; 43_assembly.md R86; log entry 1). -/
def Obligations.EncFormsOutOfDomainDraw : Prop :=
  ∀ (m : Mode) (b sp : PortBits) (s : State), ¬(validLevel b = true ∧ validLevel sp = true) →
    exec (instrOfMode b sp m) s = .next { s with
      out := ⟨0xFA#8, Config.anyByte s.draws, Config.anyByte (s.draws + 1),
        Config.anyByte (s.draws + 2), Config.anyByte (s.draws + 3)⟩, draws := s.draws + 4 }

/-- The three reserved selects run on every operand: byte 0 is 0xFA, the other four bytes are the next
four draws, and nothing else changes but the count of draws (30_encoding.md R49 to R51;
41_mode_mapping.md R72; log entry 1). -/
def Obligations.ReservedSelectsDraw : Prop :=
  ∀ (b sp : PortBits) (s : State),
    let drawn : State := { s with
      out := ⟨0xFA#8, Config.anyByte s.draws, Config.anyByte (s.draws + 1),
        Config.anyByte (s.draws + 2), Config.anyByte (s.draws + 3)⟩, draws := s.draws + 4 }
    exec (.reserved5 b sp) s = .next drawn ∧ exec (.reserved6 b sp) s = .next drawn ∧
      exec (.reserved7 b sp) s = .next drawn

/-- `ASSEMBLE`, the row `FRAME`: the five bytes in order, three of them widened with zeros, and nothing
else changes. R84 of 43_assembly.md gives the operation over the nets; that exec of the output format FRAME
means it, on any operands, is the model's choice (DESIGN CHOICE), log entry 4. -/
def Obligations.FrameRowAssembles : Prop :=
  ∀ (m wb ws : PortBits) (c : Byte) (s : State),
    exec (.frame m wb ws c) s = .next { s with
      out := ⟨0xFA#8, m.setWidth 8, wb.setWidth 8, ws.setWidth 8, c⟩ }

/-- `ENCODE` is the assembly of its nets, and the well-formed `FRAME` rows are exactly the frames of the
125 valid configurations (43_assembly.md R84, R85; 30_encoding.md R42, R53). That exec of a FRAME row means
ASSEMBLE, and which rows are well formed, are the model's choices (DESIGN CHOICE), log entries 4 and 11. -/
def Obligations.EncodeIsAssemblyOfItsNets : Prop :=
  (∀ (md : Mode) (b sp : PortBits) (s : State), validLevel b = true → validLevel sp = true →
    let row := Instr.frame ((code md).setWidth 3) (inv b) (inv sp)
      (checksum (code md) ((inv b).setWidth 8) ((inv sp).setWidth 8))
    WellFormed row = true ∧ exec (instrOfMode b sp md) s = exec row s) ∧
  (∀ (m wb ws : PortBits) (c : Byte), WellFormed (.frame m wb ws c) = true →
    ∃ (md : Mode) (b sp : PortBits), validLevel b = true ∧ validLevel sp = true ∧
      ∀ s : State, exec (.frame m wb ws c) s = exec (instrOfMode b sp md) s)

/- ## The whole operation at the ports -/

/-- `ENCODE` in the valid domain at the ports: the five bytes, the range of the total, and nothing but the
output ports changes (43_assembly.md R85). -/
def Obligations.EncodeInTheValidDomain : Prop :=
  ∀ (s : State) (k b sp : PortBits) (m : Mode),
    s.modeSel = .driven k → s.brightness = .driven b → s.speed = .driven sp →
    valid k b sp = true → modeOf k = some m →
    let sum := 0xFA + (code m).toNat + (6 - b.toNat) + (6 - sp.toNat)
    253 ≤ sum ∧ sum ≤ 265 ∧
    step s = .next { s with out := ⟨0xFA#8, code m, BitVec.ofNat 8 (6 - b.toNat),
      BitVec.ofNat 8 (6 - sp.toNat), BitVec.ofNat 8 (sum % 256)⟩ }

/-- `ENCODE` outside the domain at the ports: byte 0 is 0xFA, the others are draws; and as soon as the
inputs are valid again the next step gives their frame (43_assembly.md R86). That the draws are numbered
is the model's, log entry 1. -/
def Obligations.EncodeOutOfDomain : Prop :=
  ∀ (s : State) (k b sp : PortBits),
    s.modeSel = .driven k → s.brightness = .driven b → s.speed = .driven sp →
    valid k b sp = false →
    ∃ t, step s = .next t ∧
      t = { s with
        out := ⟨0xFA#8, Config.anyByte s.draws, Config.anyByte (s.draws + 1),
          Config.anyByte (s.draws + 2), Config.anyByte (s.draws + 3)⟩, draws := s.draws + 4 } ∧
      ∀ (k' b' sp' : PortBits) (m : Mode), valid k' b' sp' = true → modeOf k' = some m →
        ∃ u, step (t.presentConfig k' b' sp') = .next u ∧ u.out = frameOf m b'.toNat sp'.toNat

/-- The step refines the function and the relation of 00_scope.md R12: from every state it answers a next
state with the same inputs, whose outputs stand in `ENC` with them; and for every mode and two levels the
outputs are `encode` of them. -/
def Obligations.StepRefinesTheEncodeFunction : Prop :=
  (∀ s : State, ∃ t, step s = .next t ∧ t.SameInputs s ∧ t.Coherent) ∧
  (∀ (m : Mode) (b sp : Level) (s : State),
    step (s.presentConfig (modeSel m) b.bits sp.bits) =
      .next { s.presentConfig (modeSel m) b.bits sp.bits with out := encodeConfig m b sp })

/-- Byte 0 is the start marker for every value of the inputs, valid or not, driven or not
(30_encoding.md R51). -/
def Obligations.StartMarkerForEveryInput : Prop :=
  ∀ s : State, ∃ t, step s = .next t ∧ t.out.byte0 = 0xFA#8

/-- Every step keeps the outputs coherent with the inputs, and the inputs as they are
(20_memory.md R35, R38). -/
def Obligations.StepKeepsCoherence : Prop :=
  ∀ s t : State, s.Coherent → step s = .next t → t.Coherent ∧ t.SameInputs s

/-- Power-up: no input is driven, byte 0 is 0xFA, the other bytes are draws, and the state is coherent
(70_reset_and_hazards.md R114). That the draws are the first four is the model's, log entry 2. -/
def Obligations.PowerUpState : Prop :=
  State.reset.modeSel = .unknown ∧ State.reset.brightness = .unknown ∧
  State.reset.speed = .unknown ∧ State.reset.out.byte0 = 0xFA#8 ∧
  State.reset.out = drawnFrame 0 ∧ State.reset.Coherent

/-- The frame checks itself: after a step on valid inputs byte 4 is the sum of the other four bytes
(42_checksum.md R83). -/
def Obligations.FrameChecksItself : Prop :=
  ∀ s : State, s.Valid → ∃ t, step s = .next t ∧
    t.out.byte4.toNat =
      (t.out.byte0.toNat + t.out.byte1.toNat + t.out.byte2.toNat + t.out.byte3.toNat) % 256

/-- The shape of every frame of the valid domain: bytes 1 to 3 are 1 to 5, and byte 4 is one of thirteen
values (30_encoding.md R53; 42_checksum.md R80). -/
def Obligations.FrameShapeInTheValidDomain : Prop :=
  ∀ s : State, s.Valid → ∃ t, step s = .next t ∧ t.out.byte0 = 0xFA#8 ∧
    (1 ≤ t.out.byte1.toNat ∧ t.out.byte1.toNat ≤ 5) ∧
    (1 ≤ t.out.byte2.toNat ∧ t.out.byte2.toNat ≤ 5) ∧
    (1 ≤ t.out.byte3.toNat ∧ t.out.byte3.toNat ≤ 5) ∧
    (0xFD ≤ t.out.byte4.toNat ∨ t.out.byte4.toNat ≤ 0x09)

/-- Two valid configurations with one frame are one configuration, and it is recovered from the frame
(43_assembly.md R95). -/
def Obligations.EncodingIsInjective : Prop :=
  (∀ s s' t t' : State, s.Valid → s'.Valid → step s = .next t → step s' = .next t' →
    t.out = t'.out → s.SameInputs s') ∧
  (∀ (s t : State) (k b sp : PortBits), s.modeSel = .driven k → s.brightness = .driven b →
    s.speed = .driven sp → valid k b sp = true → step s = .next t →
    recoverConfig t.out = some (k, b, sp))

/-- The mux and the two inverters are independent: on valid inputs byte 1 depends on the mode select
alone, byte 2 on the brightness, byte 3 on the speed (40_range_inversion.md R59; 41_mode_mapping.md
R65). -/
def Obligations.FieldsAreIndependent : Prop :=
  ∀ s s' t t' : State, s.Valid → s'.Valid → step s = .next t → step s' = .next t' →
    (s.modeSel = s'.modeSel → t.out.byte1 = t'.out.byte1) ∧
    (s.brightness = s'.brightness → t.out.byte2 = t'.out.byte2) ∧
    (s.speed = s'.speed → t.out.byte3 = t'.out.byte3)

/-- The block is memoryless: from two states that agree on valid inputs and on nothing else, a step gives
the same five bytes and neither changes anything but its outputs (10_state.md R24; 42_checksum.md
R82). -/
def Obligations.BlockIsMemoryless : Prop :=
  ∀ s s' : State, s.SameInputs s' → s.Valid →
    ∃ f : Frame, step s = .next { s with out := f } ∧ step s' = .next { s' with out := f }

/-- Outside the domain it makes no difference which input is at fault, or how many, or whether one is not
driven at all (60_exceptions.md R103; 70_reset_and_hazards.md R114). The spec relates no two draws
(30_encoding.md R50): that equal counts of draws give equal bytes is the model's choice (DESIGN CHOICE), log
entry 1, and that a port is driven or not as a whole the model's reading (DEDUCED), log entry 8. -/
def Obligations.NoFieldIsExaminedBeforeAnother : Prop :=
  ∀ s s' : State, ¬s.Valid → ¬s'.Valid → s.draws = s'.draws →
    ∃ t t', step s = .next t ∧ step s' = .next t' ∧ t.out = t'.out ∧ t.draws = t'.draws ∧
      t.SameInputs s ∧ t'.SameInputs s'

/-- With valid inputs held, evaluating again changes nothing at all (20_memory.md R32). -/
def Obligations.EvaluatingAgainChangesNothing : Prop :=
  ∀ s : State, s.Valid → ∃ t, step s = .next t ∧ t.Valid ∧ step t = .next t

/- ## The block between its producer and its consumer -/

/-- The producer drives: with a change of an input bytes 1 to 4 are draws and byte 0 stays 0xFA, and the
inputs are the driven ones; with no change nothing happens (70_reset_and_hazards.md R118; 20_memory.md
R32). A move of one port sets that port to its level and leaves the two others; a move of all three sets
all three (70_reset_and_hazards.md R116, R129). The draws' numbering and when a level counts as changed are
the model's, log entries 1 and 8. -/
def Obligations.DrivingAnInputUnsettlesFourBytes : Prop :=
  (∀ (s : State) (m : ProducerMove), s.setPorts m ≠ s →
    s.drive m = { s.setPorts m with
      out := ⟨0xFA#8, Config.anyByte s.draws, Config.anyByte (s.draws + 1),
        Config.anyByte (s.draws + 2), Config.anyByte (s.draws + 3)⟩, draws := s.draws + 4 }) ∧
  (∀ (s : State) (m : ProducerMove), s.setPorts m = s → s.drive m = s) ∧
  (∀ (s : State) (l : PortLevel),
    (s.drive (.modeSel l)).modeSel = l ∧ (s.drive (.modeSel l)).brightness = s.brightness ∧
    (s.drive (.modeSel l)).speed = s.speed) ∧
  (∀ (s : State) (l : PortLevel),
    (s.drive (.brightness l)).brightness = l ∧ (s.drive (.brightness l)).modeSel = s.modeSel ∧
    (s.drive (.brightness l)).speed = s.speed) ∧
  (∀ (s : State) (l : PortLevel),
    (s.drive (.speed l)).speed = l ∧ (s.drive (.speed l)).modeSel = s.modeSel ∧
    (s.drive (.speed l)).brightness = s.brightness) ∧
  (∀ (s : State) (k b sp : PortBits),
    (s.drive (.config k b sp)).modeSel = .driven k ∧
    (s.drive (.config k b sp)).brightness = .driven b ∧
    (s.drive (.config k b sp)).speed = .driven sp)

/-- Whatever the producer and the consumer do, byte 0 is the start marker, and at every moment when the
inputs have been stable for `T_PD` the outputs are the ones of `ENC` (20_memory.md R35; 30_encoding.md
R51; 70_reset_and_hazards.md R129). How time is counted is the model's, log entry 6. -/
def Obligations.EveryEventKeepsTheOutputsRight : Prop :=
  ∀ (y : System) (es : List Event), y.Inv → (y.run es).Inv

/-- The invariant of `EveryEventKeepsTheOutputsRight` holds at power-up. -/
def Obligations.PowerUpIsRight : Prop := System.powerUp.Inv

/-- `T_PD` after a valid configuration is driven the outputs are its frame, whatever the history: earlier
inputs, out-of-domain ones and undriven ones among them, leave no trace (10_state.md R24;
70_reset_and_hazards.md R114; 60_exceptions.md R105). How time is counted is the model's, log entry 6. -/
def Obligations.SettledFrameWhateverTheHistory : Prop :=
  ∀ (es : List Event) (k b sp : PortBits) (m : Mode) (time : Nat),
    valid k b sp = true → modeOf k = some m → Config.settleTime ≤ time →
    (System.powerUp.run (es ++ [.drive (.config k b sp), .wait time])).block.out =
      frameOf m b.toNat sp.toNat

/-- The producer holds valid inputs from a settled moment on: every byte the consumer then samples, at any
times and in any order, is that byte of the one frame, and the outputs stay (70_reset_and_hazards.md
R119; 20_memory.md R31). How time is counted is the model's, log entry 6. -/
def Obligations.HeldInputsGiveOneFrame : Prop :=
  ∀ (y : System) (es : List Event), y.block.Valid → y.block.Coherent →
    Config.settleTime ≤ y.stableFor → es.all Event.holds = true →
    (∀ p ∈ y.taken es, p.2 = y.block.out.byte p.1) ∧ (y.run es).block.out = y.block.out

/-- From every system whose byte 0 is the start marker, each event keeps it so, settled or not, whatever is
driven, and port 0 shows the start marker in every sample of every run (30_encoding.md R51; 43_assembly.md
R93; 70_reset_and_hazards.md R118). The events and how time is counted are the model's, log entry 6. -/
def Obligations.PortZeroAlwaysShowsTheStartMarker : Prop :=
  (∀ (y : System) (e : Event), y.block.out.byte0 = 0xFA#8 →
    (y.apply e).block.out.byte0 = 0xFA#8) ∧
  (∀ (y : System) (es : List Event) (p : Fin 5 × Byte), y.block.out.byte0 = 0xFA#8 →
    p ∈ y.taken es → p.1 = 0 → p.2 = 0xFA#8)

/-- A torn frame is possible: the consumer samples two bytes of one configuration and three of another,
each settled, and what it took fails the self-check (20_memory.md R31; 70_reset_and_hazards.md R119; the
fifth stimulus program of 95_test_vectors.md). How time is counted is the model's reading (DEDUCED), log
entry 6. -/
def Obligations.ChangedInputsCanTearAFrame : Prop :=
  ∀ time : Nat, Config.settleTime ≤ time →
    (System.powerUp.taken
      [.drive (.config 2#3 1#3 1#3), .wait time, .sample 0, .sample 1,
       .drive (.config 0#3 5#3 5#3), .wait time, .sample 2, .sample 3, .sample 4]).map Prod.snd =
      [0xFA#8, 0x01#8, 0x01#8, 0x01#8, 0x00#8] ∧
    Frame.selfCheck ⟨0xFA#8, 0x01#8, 0x01#8, 0x01#8, 0x00#8⟩ = false

/- ## The emission, outside the block -/

/-- The emission loop of the model keeps the consumer's duties whatever the transport answers; it sends the
whole frame exactly when the transport gives five answers and the first five are good and within the time
limit, and then the values written are the five bytes; otherwise it ends with a failed write
(70_reset_and_hazards.md R120 to R124). The loop is the model's choice, outside the block, log entry 7. -/
def Obligations.EmissionLoopKeepsTheDuties : Prop :=
  ∀ (f : Frame) (now : Nat) (answers : List (Nat × Bool)),
    let writes := emitBytes now f.bytes answers
    emissionOf f writes ∧
    (frameSent writes = true ↔ 5 ≤ answers.length ∧
      ∀ a ∈ answers.take 5, a.1 ≤ Config.writeTimeout ∧ a.2 = true) ∧
    (frameSent writes = true → writes.map ByteWrite.value = f.bytes) ∧
    (emissionFailed writes = true ↔ frameSent writes = false)

/-- An emission is all or nothing: it ends with the five bytes of the frame written, or with a failed write
after good ones, never otherwise; and no write follows an ended emission, a retry or another
(70_reset_and_hazards.md R122, R123). The predicate is the model's form of the consumer's duty, log
entry 7. -/
def Obligations.EmissionIsAllOrNothing : Prop :=
  (∀ (f : Frame) (ws : List ByteWrite), emissionOf f ws →
    (frameSent ws = true ∧ emissionFailed ws = false ∧ ws.map ByteWrite.value = f.bytes) ∨
    (frameSent ws = false ∧ emissionFailed ws = true ∧ ws.dropLast.all ByteWrite.ok = true)) ∧
  (∀ (f : Frame) (ws : List ByteWrite) (w : ByteWrite), emissionOf f ws →
    ¬emissionSoFar f (ws ++ [w])) ∧
  (∀ (f : Frame) (ws : List ByteWrite), ws.length < 5 → ws.all ByteWrite.ok = true →
    ¬emissionOf f ws)

/-- A complete emission lasts at least four inter-byte delays (70_reset_and_hazards.md R127). -/
def Obligations.CompleteEmissionLastsFourGaps : Prop :=
  ∀ (f : Frame) (ws : List ByteWrite) (w v : ByteWrite), emissionOf f ws → frameSent ws = true →
    ws.head? = some w → ws.getLast? = some v →
    ws.map ByteWrite.value = f.bytes ∧ w.start + 4 * Config.interByteDelay ≤ v.finish
end

