-- ==== Sys2Proof/Laws/Emission.lean ====
section
/-! SUPPORT. What the emission loop does with one byte, in each of its cases, and what a failed emission is. -/

namespace Sys2Proof.Machine

/-- With an answer that is good and in time the byte is written and the loop goes on after the gap. -/
theorem emitBytes_accepted (now time : Nat) (good : Bool) (v : Byte) (vs : List Byte)
    (answers : List (Nat × Bool)) (h : time ≤ Config.writeTimeout ∧ good = true) :
    emitBytes now (v :: vs) ((time, good) :: answers) =
      ⟨v, now, now + time, true⟩ ::
        emitBytes (now + time + Config.interByteDelay) vs answers := if_pos h

/-- With any other answer the write fails and is the last. -/
theorem emitBytes_failed (now time : Nat) (good : Bool) (v : Byte) (vs : List Byte)
    (answers : List (Nat × Bool)) (h : ¬(time ≤ Config.writeTimeout ∧ good = true)) :
    emitBytes now (v :: vs) ((time, good) :: answers) =
      [⟨v, now, now + min time Config.writeTimeout, false⟩] := if_neg h

/-- With no answer the write lasts to the time limit, fails, and is the last. -/
@[simp] theorem emitBytes_no_answer (now : Nat) (v : Byte) (vs : List Byte) :
    emitBytes now (v :: vs) [] = [⟨v, now, now + Config.writeTimeout, false⟩] := rfl

/-- With no byte left nothing is written. -/
@[simp] theorem emitBytes_no_byte (now : Nat) (answers : List (Nat × Bool)) :
    emitBytes now [] answers = [] := rfl

/-- An emission has failed exactly where its last write is not good. -/
@[simp] theorem emissionFailed_append (ws : List ByteWrite) (w : ByteWrite) :
    emissionFailed (ws ++ [w]) = !w.ok := by
  simp [emissionFailed]

/-- An emission with no write has not failed. -/
@[simp] theorem emissionFailed_nil : emissionFailed [] = false := rfl

/-- In well-paced writes every write but the last is good. -/
theorem wellPaced_earlier_ok (ws : List ByteWrite) (w : ByteWrite) (h : wellPaced (ws ++ [w])) :
    ∀ v ∈ ws, v.ok = true := by
  induction ws with
  | nil => simp
  | cons v ws ih =>
    have step : v.ok = true ∧ wellPaced (ws ++ [w]) := by
      cases ws with
      | nil => exact ⟨h.2.1, h.2.2.2⟩
      | cons u us => exact ⟨h.2.1, h.2.2.2⟩
    intro x hx
    rcases List.mem_cons.1 hx with rfl | hx
    · exact step.1
    · exact ih step.2 x hx

end Sys2Proof.Machine
end

