-- ==== Sys2Proof/Laws/State.lean ====
section
/-! SUPPORT. One lemma for each field and each update of the state. -/

namespace Sys2Proof.Machine

@[simp] theorem showFrame_modeSel (s : State) (f : Frame) : (s.showFrame f).modeSel = s.modeSel := rfl
@[simp] theorem showFrame_brightness (s : State) (f : Frame) :
    (s.showFrame f).brightness = s.brightness := rfl
@[simp] theorem showFrame_speed (s : State) (f : Frame) : (s.showFrame f).speed = s.speed := rfl
@[simp] theorem showFrame_out (s : State) (f : Frame) : (s.showFrame f).out = f := rfl
@[simp] theorem showFrame_draws (s : State) (f : Frame) : (s.showFrame f).draws = s.draws := rfl

@[simp] theorem drawOut_modeSel (s : State) : s.drawOut.modeSel = s.modeSel := rfl
@[simp] theorem drawOut_brightness (s : State) : s.drawOut.brightness = s.brightness := rfl
@[simp] theorem drawOut_speed (s : State) : s.drawOut.speed = s.speed := rfl
@[simp] theorem drawOut_out (s : State) : s.drawOut.out = drawnFrame s.draws := rfl
@[simp] theorem drawOut_draws (s : State) : s.drawOut.draws = s.draws + 4 := rfl

@[simp] theorem drawnFrame_byte0 (n : Nat) : (drawnFrame n).byte0 = Config.startMarker := rfl

@[simp] theorem presentConfig_modeSel (k b sp : PortBits) (s : State) :
    (s.presentConfig k b sp).modeSel = .driven k := rfl
@[simp] theorem presentConfig_brightness (k b sp : PortBits) (s : State) :
    (s.presentConfig k b sp).brightness = .driven b := rfl
@[simp] theorem presentConfig_speed (k b sp : PortBits) (s : State) :
    (s.presentConfig k b sp).speed = .driven sp := rfl
@[simp] theorem presentConfig_out (k b sp : PortBits) (s : State) :
    (s.presentConfig k b sp).out = s.out := rfl
@[simp] theorem presentConfig_draws (k b sp : PortBits) (s : State) :
    (s.presentConfig k b sp).draws = s.draws := rfl

@[simp] theorem releaseInputs_modeSel (s : State) : s.releaseInputs.modeSel = .unknown := rfl
@[simp] theorem releaseInputs_brightness (s : State) : s.releaseInputs.brightness = .unknown := rfl
@[simp] theorem releaseInputs_speed (s : State) : s.releaseInputs.speed = .unknown := rfl
@[simp] theorem releaseInputs_out (s : State) : s.releaseInputs.out = s.out := rfl
@[simp] theorem releaseInputs_draws (s : State) : s.releaseInputs.draws = s.draws := rfl

@[simp] theorem setPorts_modeSel_self (s : State) (l : PortLevel) :
    s.setPorts (.modeSel l) = { s with modeSel := l } := rfl
@[simp] theorem setPorts_brightness_self (s : State) (l : PortLevel) :
    s.setPorts (.brightness l) = { s with brightness := l } := rfl
@[simp] theorem setPorts_speed_self (s : State) (l : PortLevel) :
    s.setPorts (.speed l) = { s with speed := l } := rfl
@[simp] theorem setPorts_config (s : State) (k b sp : PortBits) :
    s.setPorts (.config k b sp) = s.presentConfig k b sp := rfl

@[simp] theorem setPorts_out (s : State) (m : ProducerMove) : (s.setPorts m).out = s.out := by
  cases m <;> rfl
@[simp] theorem setPorts_draws (s : State) (m : ProducerMove) :
    (s.setPorts m).draws = s.draws := by
  cases m <;> rfl

end Sys2Proof.Machine
end

