-- ==== Sys2Proof/Laws/Ops.lean ====
section
/-! SUPPORT. One lemma for each shared operation: what it can do, all of it. -/

namespace Sys2Proof.Machine

theorem validLevel_iff (v : PortBits) : validLevel v = true ↔ 1 ≤ v.toNat ∧ v.toNat ≤ 5 := by
  simp [validLevel]

theorem valid_iff (k b s : PortBits) :
    valid k b s = true ↔ k.toNat ≤ 4 ∧ validLevel b = true ∧ validLevel s = true := by
  simp [valid, validSel, and_assoc]

/-- The nets of a configuration: the two inverted levels, the code and the sum, or none where a level is
out of domain. -/
theorem encodeNets_eq (m : Mode) (b s : PortBits) :
    encodeNets m b s =
      if validLevel b = true ∧ validLevel s = true then
        some ⟨code m, inv b, inv s, checksum (code m) ((inv b).setWidth 8) ((inv s).setWidth 8)⟩
      else none := by
  unfold encodeNets brightnessInverter speedInverter
  cases validLevel b <;> cases validLevel s <;> rfl

/-- `ENCODE` with a mode: the assembled frame on valid levels, the draws elsewhere. -/
theorem encodeMode_eq (m : Mode) (b s : PortBits) (st : State) :
    st.encodeMode m b s =
      if validLevel b = true ∧ validLevel s = true then
        st.showFrame (assemble
          ⟨code m, inv b, inv s, checksum (code m) ((inv b).setWidth 8) ((inv s).setWidth 8)⟩)
      else st.drawOut := by
  unfold State.encodeMode
  rw [encodeNets_eq]
  by_cases h : validLevel b = true ∧ validLevel s = true <;> simp [h]

/-- What any instruction does: it answers a next state that differs from the state at most in the output
ports and the counter of draws. -/
theorem exec_next (i : Instr) (s : State) :
    ∃ f n, exec i s = .next { s with out := f, draws := n } := by
  have mode (m : Mode) (b sp : PortBits) :
      ∃ f n, s.encodeMode m b sp = { s with out := f, draws := n } := by
    rw [encodeMode_eq]
    split
    · exact ⟨_, _, rfl⟩
    · exact ⟨_, _, rfl⟩
  cases i with
  | encOff b sp => exact (mode .off b sp).imp fun f h => h.imp fun n e => congrArg _ e
  | encAuto b sp => exact (mode .auto b sp).imp fun f h => h.imp fun n e => congrArg _ e
  | encRainbow b sp => exact (mode .rainbow b sp).imp fun f h => h.imp fun n e => congrArg _ e
  | encBreathing b sp => exact (mode .breathing b sp).imp fun f h => h.imp fun n e => congrArg _ e
  | encColourCycle b sp =>
    exact (mode .colourCycle b sp).imp fun f h => h.imp fun n e => congrArg _ e
  | reserved5 b sp => exact ⟨_, _, rfl⟩
  | reserved6 b sp => exact ⟨_, _, rfl⟩
  | reserved7 b sp => exact ⟨_, _, rfl⟩
  | frame m wb ws c => exact ⟨_, _, rfl⟩

/-- A producer's move: nothing where no level changes, else the new levels and four draws. -/
theorem drive_cases (s : State) (m : ProducerMove) :
    (s.unchangedBy m = true ∧ s.drive m = s) ∨
      (s.unchangedBy m = false ∧ s.drive m = (s.setPorts m).drawOut) := by
  unfold State.drive
  cases s.unchangedBy m <;> simp

end Sys2Proof.Machine
end

