-- ==== Sys2Proof/Laws/PerInstr.lean ====
section
/-! SUPPORT. Families of lemmas with one lemma for each constructor of `Instr`. -/

namespace Sys2Proof.Laws

/-- The length of an instruction's encoding: two bytes for a `CFG` word, five for a `FRAME`
(30_encoding.md R40). -/
def WordLength.Statement (i : Instr) : Prop :=
  (encode i).length = if i.mnemonic = "FRAME" then 5 else 2

theorem WordLength.encOff (b s : PortBits) : WordLength.Statement (.encOff b s) := rfl
theorem WordLength.encAuto (b s : PortBits) : WordLength.Statement (.encAuto b s) := rfl
theorem WordLength.encRainbow (b s : PortBits) : WordLength.Statement (.encRainbow b s) := rfl
theorem WordLength.encBreathing (b s : PortBits) : WordLength.Statement (.encBreathing b s) := rfl
theorem WordLength.encColourCycle (b s : PortBits) : WordLength.Statement (.encColourCycle b s) := rfl
theorem WordLength.reserved5 (b s : PortBits) : WordLength.Statement (.reserved5 b s) := rfl
theorem WordLength.reserved6 (b s : PortBits) : WordLength.Statement (.reserved6 b s) := rfl
theorem WordLength.reserved7 (b s : PortBits) : WordLength.Statement (.reserved7 b s) := rfl
theorem WordLength.frame (m b s : PortBits) (c : Byte) :
    WordLength.Statement (.frame m b s c) := rfl

end Sys2Proof.Laws
end

