-- ==== Sys2Proof/Laws/Step.lean ====
section
/-! SUPPORT. The reading of the input ports, one step, and one event of the system, each said once. -/

namespace Sys2Proof.Machine

/-- The fields of a configuration word are the three values it was made of. -/
theorem decodeCfg_cfgWord (k b sp : PortBits) :
    decodeCfg (cfgWord k b sp) = instrOfFields k b sp := by
  decide +revert

/-- A select value names a mode exactly where it is valid. -/
theorem validSel_eq_isSome_modeOf (k : PortBits) : validSel k = (modeOf k).isSome := by
  decide +revert

/-- The instruction of three driven ports. -/
theorem presented_driven (s : State) (k b sp : PortBits) (hk : s.modeSel = .driven k)
    (hb : s.brightness = .driven b) (hs : s.speed = .driven sp) :
    s.presented = some (instrOfFields k b sp) := by
  simp [State.presented, State.cfg, hk, hb, hs, PortLevel.value, decodeCfg_cfgWord]

/-- No instruction stands on the ports while one of them is not driven. -/
theorem presented_unknown (s : State)
    (h : s.modeSel = .unknown ∨ s.brightness = .unknown ∨ s.speed = .unknown) :
    s.presented = none := by
  unfold State.presented State.cfg
  rcases h with h | h | h <;> rw [h] <;> simp [PortLevel.value]

/-- A step is the instruction on the ports, or the draw where there is none. -/
theorem step_eq (s : State) :
    (∃ i, s.presented = some i ∧ step s = exec i s) ∨
      (s.presented = none ∧ step s = .next s.drawOut) := by
  unfold step
  cases h : s.presented with
  | none => exact .inr ⟨rfl, rfl⟩
  | some i => exact .inl ⟨i, rfl, rfl⟩

/-- The instruction of a mode is `ENCODE` with that mode. -/
theorem exec_instrOfMode (m : Mode) (b sp : PortBits) (s : State) :
    exec (instrOfMode b sp m) s = .next (s.encodeMode m b sp) := by
  cases m <;> rfl

/-- Settling is the step. -/
theorem settle_of_step (s t : State) (h : step s = .next t) : s.settle = t := by
  simp [State.settle, h]

/-- `T_PD` is positive. -/
theorem settleTime_pos : 0 < Config.settleTime := Nat.succ_pos _

/-- Two runs one after the other are one run. -/
theorem run_append (y : System) (es fs : List Event) : y.run (es ++ fs) = (y.run es).run fs := by
  induction es generalizing y with
  | nil => rfl
  | cons e es ih => exact ih (y.apply e)

/-- A wait that reaches `T_PD` settles the block. -/
theorem apply_wait_settled (y : System) (t : Nat) (h : Config.settleTime ≤ y.stableFor + t) :
    y.apply (.wait t) = ⟨y.block.settle, y.stableFor + t⟩ := if_pos h

/-- A wait that does not reach `T_PD` leaves the outputs unsettled. -/
theorem apply_wait_unsettled (y : System) (t : Nat) (h : ¬Config.settleTime ≤ y.stableFor + t) :
    y.apply (.wait t) = ⟨y.block.drawOut, y.stableFor + t⟩ := if_neg h

/-- A drive that changes no level does nothing. -/
theorem apply_drive_unchanged (y : System) (m : ProducerMove) (h : y.block.unchangedBy m = true) :
    y.apply (.drive m) = y := if_pos h

/-- A drive that changes a level starts the settling time again. -/
theorem apply_drive_changed (y : System) (m : ProducerMove) (h : y.block.unchangedBy m = false) :
    y.apply (.drive m) = ⟨(y.block.setPorts m).drawOut, 0⟩ := by
  simp [System.apply, State.drive, h]

/-- A sample has no effect. -/
@[simp] theorem apply_sample (y : System) (i : Fin 5) : y.apply (.sample i) = y := rfl

end Sys2Proof.Machine
end

