-- ==== Sys2Proof/Tests/Slice0.lean ====
section
/-! SUPPORT. Tests, with their expected values from the spec (95_test_vectors.md sections 1 to 8, and the
encodings of 30_encoding.md R48), and for each statement that has hypotheses a state and operands that
meet them. -/

namespace Sys2Proof.Tests

open Sys2Proof.Machine

/- ## Well-formedness: each check refuses an ill-formed term -/

theorem test_wf_frame_ok : WellFormed (.frame 1#3 5#3 2#3 0x02#8) = true := by decide
theorem test_wf_mode_code_zero : WellFormed (.frame 0#3 5#3 2#3 0x01#8) = false := by decide
theorem test_wf_mode_code_six : WellFormed (.frame 6#3 5#3 2#3 0x07#8) = false := by decide
theorem test_wf_brightness_zero : WellFormed (.frame 1#3 0#3 2#3 0xFD#8) = false := by decide
theorem test_wf_brightness_six : WellFormed (.frame 1#3 6#3 2#3 0x03#8) = false := by decide
theorem test_wf_speed_zero : WellFormed (.frame 1#3 5#3 0#3 0x00#8) = false := by decide
theorem test_wf_speed_seven : WellFormed (.frame 1#3 5#3 7#3 0x07#8) = false := by decide
/-- the exclusive-or of 95_test_vectors.md 5.1 is not the checksum -/
theorem test_wf_checksum_xor : WellFormed (.frame 1#3 5#3 2#3 0xFC#8) = false := by decide

/- ## Decoding: words written out bit by bit from 30_encoding.md R48 and R42 -/

theorem test_decode_encOff : decode [0b00_001_011#8, 0#8] = .ok (.encOff 1#3 3#3) := by decide
theorem test_decode_encAuto : decode [0b01_101_001#8, 0#8] = .ok (.encAuto 5#3 1#3) := by decide
theorem test_decode_encRainbow :
    decode [0b10_001_100#8, 0#8] = .ok (.encRainbow 1#3 4#3) := by decide
theorem test_decode_encBreathing :
    decode [0b11_010_100#8, 0#8] = .ok (.encBreathing 2#3 4#3) := by decide
theorem test_decode_encColourCycle :
    decode [0b00_101_100#8, 1#8] = .ok (.encColourCycle 5#3 4#3) := by decide
theorem test_decode_reserved5 : decode [0b01_001_000#8, 1#8] = .ok (.reserved5 1#3 0#3) := by decide
theorem test_decode_reserved6 : decode [0b10_011_110#8, 1#8] = .ok (.reserved6 3#3 6#3) := by decide
theorem test_decode_reserved7 : decode [0b11_000_111#8, 1#8] = .ok (.reserved7 0#3 7#3) := by decide
theorem test_decode_frame :
    decode [0b11111010#8, 0b00000_011#8, 0b00000_001#8, 0b00000_010#8, 0b00000000#8] =
      .ok (.frame 3#3 1#3 2#3 0#8) := by decide
theorem test_decode_tenth_bit : decode [0#8, 2#8] = .error .bitAboveCfg := by decide
theorem test_decode_start_marker :
    decode [0xFB#8, 1#8, 5#8, 2#8, 2#8] = .error .noStartMarker := by decide
theorem test_decode_frame_high_bit :
    decode [0xFA#8, 1#8, 0x0D#8, 2#8, 2#8] = .error .frameHighBits := by decide
theorem test_decode_length : decode [0xFA#8, 1#8, 5#8] = .error .noSuchLength := by decide
theorem test_table_word_no_format : decodeTableWord 24 0 = none := by decide
theorem test_table_word_too_wide : decodeTableWord 16 0x209 = none := by decide

/- ## One step after power-up -/

/-- The outputs one step after a table word is placed at power-up. -/
def frameAfter (nbits w : Nat) : Option Frame :=
  match step (State.reset.withFetchWord nbits w) with
  | .next t => some t.out
  | _ => none

/-- Byte 0 and the count of draws one step after a table word is placed at power-up. -/
def startAndDraws (w : Nat) : Option (Byte × Nat) :=
  match step (State.reset.withFetchWord 16 w) with
  | .next t => some (t.out.byte0, t.draws)
  | _ => none

theorem test_encOff_5_5 : frameAfter 16 0x02D = some ⟨0xFA, 0x04, 0x01, 0x01, 0x00⟩ := by decide
theorem test_encOff_2_5 : frameAfter 16 0x015 = some ⟨0xFA, 0x04, 0x04, 0x01, 0x03⟩ := by decide
theorem test_encAuto_1_1 : frameAfter 16 0x049 = some ⟨0xFA, 0x05, 0x05, 0x05, 0x09⟩ := by decide
theorem test_encAuto_5_4 : frameAfter 16 0x06C = some ⟨0xFA, 0x05, 0x01, 0x02, 0x02⟩ := by decide
theorem test_encRainbow_3_4 : frameAfter 16 0x09C = some ⟨0xFA, 0x01, 0x03, 0x02, 0x00⟩ := by decide
theorem test_encRainbow_5_5 : frameAfter 16 0x0AD = some ⟨0xFA, 0x01, 0x01, 0x01, 0xFD⟩ := by decide
theorem test_encBreathing_1_2 : frameAfter 16 0x0CA = some ⟨0xFA, 0x02, 0x05, 0x04, 0x05⟩ := by
  decide
theorem test_encBreathing_5_4 : frameAfter 16 0x0EC = some ⟨0xFA, 0x02, 0x01, 0x02, 0xFF⟩ := by
  decide
theorem test_encColourCycle_5_1 : frameAfter 16 0x129 = some ⟨0xFA, 0x03, 0x01, 0x05, 0x03⟩ := by
  decide
theorem test_encColourCycle_5_5 : frameAfter 16 0x12D = some ⟨0xFA, 0x03, 0x01, 0x01, 0xFF⟩ := by
  decide
theorem test_encOff_level_zero : startAndDraws 0x003 = some (0xFA, 8) := by decide
theorem test_encRainbow_level_six : startAndDraws 0x0B1 = some (0xFA, 8) := by decide
theorem test_reserved5 : startAndDraws 0x149 = some (0xFA, 8) := by decide
theorem test_reserved6 : startAndDraws 0x19B = some (0xFA, 8) := by decide
theorem test_reserved7 : startAndDraws 0x1FF = some (0xFA, 8) := by decide
theorem test_valid_takes_no_draw : startAndDraws 0x089 = some (0xFA, 4) := by decide
theorem test_frame_row : frameAfter 40 0xFA02050405 = some ⟨0xFA, 0x02, 0x05, 0x04, 0x05⟩ := by
  decide
theorem test_frame_row_exec (s : State) :
    execFrame 3#3 1#3 5#3 0x03#8 s = .next { s with out := ⟨0xFA, 0x03, 0x01, 0x05, 0x03⟩ } := rfl

/-- The undriven block shows the start marker (95_test_vectors.md, the first step of stimulus 1). -/
theorem test_undriven : step State.reset = .next State.reset.drawOut := rfl

/- ## Spelling, 30_encoding.md R55 -/

theorem test_spelling_rainbow : instrText (.encRainbow 1#3 4#3) = "ENC.RAINBOW 1, 4" := by decide
theorem test_spelling_reserved : instrText (.reserved5 1#3 1#3) = "ENC.#5 1, 1" := by decide
theorem test_spelling_frame : instrText (.frame 1#3 1#3 1#3 0xFD#8) = "FA 01 01 01 FD" := by decide

/- ## Witnesses: what meets the hypotheses of a statement -/

/-- Driven with `ENC.RAINBOW 1, 5`, one settled sample. -/
def settledState : State :=
  ⟨.driven 2#3, .driven 1#3, .driven 5#3, ⟨0xFA#8, 0x01#8, 0x05#8, 0x01#8, 0x01#8⟩, 4⟩

/-- The same inputs, other outputs and draws. -/
def otherOutputs : State :=
  ⟨.driven 2#3, .driven 1#3, .driven 5#3, ⟨0xFA#8, 0x00#8, 0x00#8, 0x00#8, 0x00#8⟩, 12⟩

/-- Driven outside the domain, `ENC.AUTO 0, 4`. -/
def outOfDomainState : State :=
  ⟨.driven 1#3, .driven 0#3, .driven 4#3, ⟨0xFA#8, 0x00#8, 0x00#8, 0x00#8, 0x00#8⟩, 4⟩

theorem settledState_step : step settledState = .next settledState := rfl
/-- For FrameChecksItself, FrameShapeInTheValidDomain and EvaluatingAgainChangesNothing. -/
theorem settledState_valid : settledState.Valid :=
  ⟨2#3, 1#3, 5#3, rfl, rfl, rfl, by decide⟩
theorem settledState_coherent : settledState.Coherent := ⟨.rainbow, rfl, by decide⟩
theorem otherOutputs_valid : otherOutputs.Valid := ⟨2#3, 1#3, 5#3, rfl, rfl, rfl, by decide⟩
theorem reset_not_valid : ¬State.reset.Valid := fun ⟨_, _, _, h, _⟩ => by cases h
theorem outOfDomainState_not_valid : ¬outOfDomainState.Valid := by
  rintro ⟨k, b, sp, hk, hb, hs, h⟩
  cases hk
  cases hb
  cases hs
  exact absurd h (by decide)

theorem witness_EncodeWritesBackDecode :
    decode [0xFF#8, 0x01#8] = .ok (.reserved7 7#3 7#3) ∧
      decode [0xFA#8, 0x07#8, 0x07#8, 0x07#8, 0xFF#8] = .ok (.frame 7#3 7#3 7#3 0xFF#8) := by decide
theorem witness_DecodeRejectsByName_length :
    ([0xFA#8] : List Byte).length ≠ 2 ∧ ([0xFA#8] : List Byte).length ≠ 5 := by decide
theorem witness_DecodeRejectsByName_bits : 2 ≤ (2#8 : Byte).toNat ∧ (0xFB#8 : Byte) ≠ 0xFA#8 ∧
    8 ≤ (8#8 : Byte).toNat := by decide
theorem witness_OpcodeMapMatchesDecoder :
    (⟨"ENC.COLOURCYCLE", 0x100#9⟩ : CfgRow) ∈ cfgRows := by decide
theorem witness_ModeSelectTable : validSel 0#3 = true ∧ validSel 4#3 = true := by decide
/-- For RangeInversionTable, RangeInversionLaws, ChecksumClosedFormInDomain, EncodeIsAssemblyOfItsNets and
the five statements of the ENC rows; the two theorems after it reach their cases' bounds. -/
theorem witness_levels : validLevel 1#3 = true ∧ validLevel 5#3 = true ∧
    (1#3 : PortBits).toNat + (1#3 : PortBits).toNat ≤ 7 := by decide
theorem witness_levels_rainbow :
    validLevel 3#3 = true ∧ validLevel 4#3 = true ∧
      (3#3 : PortBits).toNat + (4#3 : PortBits).toNat = 7 ∧
      (4#3 : PortBits).toNat + (4#3 : PortBits).toNat = 8 := by decide
theorem witness_levels_breathing :
    validLevel 4#3 = true ∧ validLevel 5#3 = true ∧
      (4#3 : PortBits).toNat + (4#3 : PortBits).toNat = 8 ∧
      (4#3 : PortBits).toNat + (5#3 : PortBits).toNat = 9 ∧
      (5#3 : PortBits).toNat + (5#3 : PortBits).toNat = 10 := by decide
theorem witness_ChecksumDoesNotDependOnTheWidth :
    (5#8 : Byte).toNat ≤ 5 ∧ (8 : Nat) ≤ 8 := by decide
theorem witness_ChecksumClosedFormInDomain :
    (rawSum (code .rainbow) ((inv 4#3).setWidth 8) ((inv 4#3).setWidth 8)).toNat = 5 ∧
      (rawSum (code .rainbow) ((inv 4#3).setWidth 8) ((inv 3#3).setWidth 8)).toNat = 6 := by decide
theorem witness_StepRunsThePresentedInstruction_driven :
    decode (cfgBytes (cfgWord 2#3 1#3 5#3)) = .ok (.encRainbow 1#3 5#3) := by decide
theorem witness_StepRunsThePresentedInstruction_unknown :
    State.reset.modeSel = .unknown ∧ (settledState.setPorts (.speed .unknown)).speed = .unknown :=
  ⟨rfl, rfl⟩
/-- For EncodeIsAssemblyOfItsNets, its second clause, too. -/
theorem witness_PlacedWordRunsNext :
    (511 : Nat) < 512 ∧ WellFormed (.frame 1#3 1#3 1#3 0xFD#8) = true ∧
      WellFormed (.frame 5#3 5#3 5#3 0x09#8) = true := by decide
theorem witness_EncFormsOutOfDomainDraw :
    ¬(validLevel 0#3 = true ∧ validLevel 5#3 = true) ∧
      ¬(validLevel 1#3 = true ∧ validLevel 6#3 = true) := by decide
theorem witness_EncodeInTheValidDomain :
    settledState.modeSel = .driven 2#3 ∧ settledState.brightness = .driven 1#3 ∧
      settledState.speed = .driven 5#3 ∧ valid 2#3 1#3 5#3 = true ∧
      modeOf 2#3 = some .rainbow := by decide
theorem witness_EncodeOutOfDomain :
    outOfDomainState.modeSel = .driven 1#3 ∧ outOfDomainState.brightness = .driven 0#3 ∧
      outOfDomainState.speed = .driven 4#3 ∧ valid 1#3 0#3 4#3 = false ∧
      valid 4#3 5#3 5#3 = true ∧ modeOf 4#3 = some .colourCycle := by decide
theorem witness_StepKeepsCoherence :
    settledState.Coherent ∧ step settledState = .next settledState :=
  ⟨settledState_coherent, settledState_step⟩
/-- For EncodingIsInjective, FieldsAreIndependent and BlockIsMemoryless. -/
theorem witness_two_valid_states :
    settledState.Valid ∧ otherOutputs.Valid ∧ step settledState = .next settledState ∧
      step otherOutputs = .next { otherOutputs with out := settledState.out } ∧
      settledState.SameInputs otherOutputs :=
  ⟨settledState_valid, otherOutputs_valid, rfl, rfl, rfl, rfl, rfl⟩
theorem witness_NoFieldIsExaminedBeforeAnother :
    ¬State.reset.Valid ∧ ¬outOfDomainState.Valid ∧ State.reset.draws = outOfDomainState.draws :=
  ⟨reset_not_valid, outOfDomainState_not_valid, rfl⟩
theorem witness_DrivingAnInputUnsettlesFourBytes :
    settledState.setPorts (.speed (.driven 4#3)) ≠ settledState ∧
      settledState.setPorts (.speed (.driven 5#3)) = settledState ∧
      settledState.setPorts (.modeSel .unknown) ≠ settledState := by decide
theorem witness_EveryEventKeepsTheOutputsRight :
    System.Inv ⟨settledState, Config.settleTime⟩ := ⟨rfl, fun _ => settledState_coherent⟩
/-- For ChangedInputsCanTearAFrame too. -/
theorem witness_SettledFrameWhateverTheHistory :
    valid 0#3 1#3 5#3 = true ∧ modeOf 0#3 = some .off ∧ Config.settleTime ≤ Config.settleTime :=
  ⟨by decide, rfl, Nat.le_refl _⟩
theorem witness_HeldInputsGiveOneFrame :
    settledState.Valid ∧ settledState.Coherent ∧
      [Event.sample 0, .wait 0, .sample 4].all Event.holds = true :=
  ⟨settledState_valid, settledState_coherent, rfl⟩
theorem witness_PortZeroAlwaysShowsTheStartMarker :
    settledState.out.byte0 = 0xFA#8 ∧
      ((0 : Fin 5), (0xFA#8 : Byte)) ∈ System.taken ⟨settledState, 0⟩ [.sample 0] :=
  ⟨rfl, List.mem_cons_self⟩

/-- Five writes that take no time, one delay apart. -/
def sentFrame : List ByteWrite :=
  [⟨0xFA#8, 0, 0, true⟩, ⟨0x01#8, Config.interByteDelay, Config.interByteDelay, true⟩,
   ⟨0x05#8, 2 * Config.interByteDelay, 2 * Config.interByteDelay, true⟩,
   ⟨0x01#8, 3 * Config.interByteDelay, 3 * Config.interByteDelay, true⟩,
   ⟨0x01#8, 4 * Config.interByteDelay, 4 * Config.interByteDelay, true⟩]

theorem witness_CompleteEmissionLastsFourGaps :
    emissionOf settledState.out sentFrame ∧ frameSent sentFrame = true := by
  refine ⟨⟨⟨Nat.le_refl _, rfl, ?_⟩, .inl rfl⟩, rfl⟩
  simp only [sentFrame, wellPaced, ByteWrite.bounded, true_and]
  omega

/-- Five answers at the time limit itself, all good; and five of which the last is not good. -/
theorem witness_EmissionLoopKeepsTheDuties :
    frameSent (emitBytes 0 settledState.out.bytes
      (List.replicate 5 (Config.writeTimeout, true))) = true ∧
    frameSent (emitBytes 0 settledState.out.bytes
      (List.replicate 4 (Config.writeTimeout, true) ++ [(0, false)])) = false := by
  simp [emitBytes, Frame.bytes, frameSent, List.replicate]

/-- A write with no answer fails at the time limit and ends the emission; one good write alone is none.
The complete emission is that of CompleteEmissionLastsFourGaps. -/
theorem witness_EmissionIsAllOrNothing :
    emissionOf settledState.out (emitBytes 0 settledState.out.bytes []) ∧
      emissionFailed (emitBytes 0 settledState.out.bytes []) = true ∧
      ([⟨0xFA#8, 0, 0, true⟩] : List ByteWrite).length < 5 ∧
      ([⟨0xFA#8, 0, 0, true⟩] : List ByteWrite).all ByteWrite.ok = true :=
  ⟨⟨⟨by decide, rfl, Nat.zero_le _, by simp⟩, .inr rfl⟩, rfl, by decide, rfl⟩

theorem test_spelling_level_zero : instrText (.encOff 0#3 3#3) = "ENC.OFF 0, 3" := by decide

end Sys2Proof.Tests
end

section
/-! SUPPORT. What the step does, said once: the frame of the nets over numbers (00_scope.md R2, R12), one
step on valid inputs, on inputs out of domain and on undriven ones, and the coherence of what it leaves. -/

namespace Sys2Proof.Machine

/- ## The values of the nets as numbers -/

/-- Range inversion of a level does not borrow (40_range_inversion.md R57). -/
theorem inv_toNat (v : PortBits) (h : validLevel v = true) : (inv v).toNat = 6 - v.toNat := by
  have ⟨_, hmax⟩ := (validLevel_iff v).1 h
  have hle : v ≤ Config.invK := BitVec.le_def.2 (by simp; omega)
  rw [inv, BitVec.toNat_sub_of_le hle]
  rfl

/-- Bytes 2 and 3 of a frame: the inverted level widened with zeros (43_assembly.md R84). -/
theorem setWidth_inv (v : PortBits) (h : validLevel v = true) :
    ((inv v).setWidth 8 : Byte) = BitVec.ofNat 8 (6 - v.toNat) := by
  rw [← inv_toNat v h, BitVec.ofNat_toNat]

/-- Sixteen bits hold the sum of three bytes (42_checksum.md R74). -/
theorem rawSum_toNat (mc wb ws : Byte) :
    (rawSum mc wb ws).toNat = mc.toNat + wb.toNat + ws.toNat := by
  simp only [rawSum, Config.sumWidth, BitVec.toNat_add, BitVec.toNat_setWidth]
  omega

/-- Sixteen bits hold the total too (42_checksum.md R74). -/
theorem total_toNat (mc wb ws : Byte) :
    (total mc wb ws).toNat = mc.toNat + wb.toNat + ws.toNat + 0xFA := by
  rw [total, BitVec.toNat_add, rawSum_toNat]
  simp only [Config.sumWidth, BitVec.toNat_setWidth, BitVec.toNat_ofNat]
  omega

/-- The checksum is the low byte of the total (42_checksum.md R74). -/
theorem checksum_toNat (mc wb ws : Byte) :
    (checksum mc wb ws).toNat = (mc.toNat + wb.toNat + ws.toNat + 0xFA) % 256 := by
  rw [checksum, BitVec.extractLsb'_toNat, total_toNat]
  rfl

/-- On valid levels the assembled nets are the frame of 00_scope.md R2: the machine's words and the
function over numbers agree. -/
theorem assemble_eq_frameOf (m : Mode) (b s : PortBits) (hb : validLevel b = true)
    (hs : validLevel s = true) :
    assemble ⟨code m, inv b, inv s, checksum (code m) ((inv b).setWidth 8) ((inv s).setWidth 8)⟩ =
      frameOf m b.toNat s.toNat := by
  have hsum : checksum (code m) (BitVec.ofNat 8 (6 - b.toNat)) (BitVec.ofNat 8 (6 - s.toNat)) =
      BitVec.ofNat 8 ((0xFA + (code m).toNat + (6 - b.toNat) + (6 - s.toNat)) % 256) := by
    apply BitVec.eq_of_toNat_eq
    simp only [checksum_toNat, BitVec.toNat_ofNat]
    omega
  rw [assemble, setWidth_inv b hb, setWidth_inv s hs, hsum, frameOf]

/- ## One step -/

/-- Either all three ports are driven or one of them is not (10_state.md R20;
70_reset_and_hazards.md R114). -/
theorem driven_or_undriven (s : State) :
    (∃ k b sp, s.modeSel = .driven k ∧ s.brightness = .driven b ∧ s.speed = .driven sp) ∨
      (s.modeSel = .unknown ∨ s.brightness = .unknown ∨ s.speed = .unknown) := by
  cases hk : s.modeSel with
  | unknown => exact .inr (.inl rfl)
  | driven k =>
    cases hb : s.brightness with
    | unknown => exact .inr (.inr (.inl rfl))
    | driven b =>
      cases hs : s.speed with
      | unknown => exact .inr (.inr (.inr rfl))
      | driven sp => exact .inl ⟨k, b, sp, rfl, rfl, rfl⟩

/-- With a port undriven the step draws. -/
theorem step_undriven (s : State)
    (h : s.modeSel = .unknown ∨ s.brightness = .unknown ∨ s.speed = .unknown) :
    step s = .next s.drawOut := by
  rw [step, presented_unknown s h, execUndriven]

section Driven

variable (s : State) (k b sp : PortBits) (hk : s.modeSel = .driven k)
  (hb : s.brightness = .driven b) (hs : s.speed = .driven sp)

include hk hb hs

/-- With all ports driven the step is the instruction of the three values. -/
theorem step_driven : step s = exec (instrOfFields k b sp) s := by
  rw [step, presented_driven s k b sp hk hb hs]

/-- On a select that names a mode the step is `ENCODE` with that mode. -/
theorem step_of_mode (m : Mode) (hm : modeOf k = some m) :
    step s = .next (s.encodeMode m b sp) := by
  have hi : instrOfFields k b sp = instrOfMode b sp m := by simp [instrOfFields, hm]
  rw [step_driven s k b sp hk hb hs, hi, exec_instrOfMode]

/-- On a reserved select the step draws, whatever the levels are (30_encoding.md R49, R50). -/
theorem step_of_reserved (hm : modeOf k = none) : step s = .next s.drawOut := by
  rw [step_driven s k b sp hk hb hs]
  simp only [instrOfFields, hm]
  split_ifs <;> rfl

/-- In the valid domain the step shows the frame and changes nothing else (43_assembly.md R85). -/
theorem step_of_valid (m : Mode) (hm : modeOf k = some m) (hv : valid k b sp = true) :
    step s = .next (s.showFrame (frameOf m b.toNat sp.toNat)) := by
  obtain ⟨_, hlb, hls⟩ := (valid_iff k b sp).1 hv
  rw [step_of_mode s k b sp hk hb hs m hm, encodeMode_eq, if_pos ⟨hlb, hls⟩,
    assemble_eq_frameOf m b sp hlb hls]

/-- Outside the valid domain the step draws, whichever field is at fault (43_assembly.md R86). -/
theorem step_of_invalid (hv : valid k b sp = false) : step s = .next s.drawOut := by
  cases hm : modeOf k with
  | none => exact step_of_reserved s k b sp hk hb hs hm
  | some m =>
    have hlevels : ¬(validLevel b = true ∧ validLevel sp = true) := by
      simpa [valid, validSel_eq_isSome_modeOf, hm] using hv
    rw [step_of_mode s k b sp hk hb hs m hm, encodeMode_eq, if_neg hlevels]

/-- Driven inputs are valid where their three values are. -/
theorem valid_iff_of_driven : s.Valid ↔ valid k b sp = true := by
  constructor
  · rintro ⟨k', b', sp', hk', hb', hs', hv⟩
    cases hk.symm.trans hk'
    cases hb.symm.trans hb'
    cases hs.symm.trans hs'
    exact hv
  · exact fun hv => ⟨k, b, sp, hk, hb, hs, hv⟩

/-- Coherence of driven inputs is the relation `ENC` (00_scope.md R12). -/
theorem coherent_iff_of_driven : s.Coherent ↔ Enc k b sp s.out := by
  rw [State.Coherent, hk, hb, hs]

end Driven

/-- Undriven inputs are not valid (70_reset_and_hazards.md R114). -/
theorem not_valid_of_undriven (s : State)
    (h : s.modeSel = .unknown ∨ s.brightness = .unknown ∨ s.speed = .unknown) : ¬s.Valid := by
  rintro ⟨k, b, sp, hk, hb, hs, -⟩
  simp [hk, hb, hs] at h

/-- Everything a step can do: on valid inputs it shows the frame of their values, on any others it draws. -/
theorem step_cases (s : State) :
    (∃ k b sp m, s.modeSel = .driven k ∧ s.brightness = .driven b ∧ s.speed = .driven sp ∧
        valid k b sp = true ∧ modeOf k = some m ∧
        step s = .next (s.showFrame (frameOf m b.toNat sp.toNat))) ∨
      (¬s.Valid ∧ step s = .next s.drawOut) := by
  rcases driven_or_undriven s with ⟨k, b, sp, hk, hb, hs⟩ | h
  · cases hv : valid k b sp with
    | false =>
      refine .inr ⟨?_, step_of_invalid s k b sp hk hb hs hv⟩
      simp [valid_iff_of_driven s k b sp hk hb hs, hv]
    | true =>
      obtain ⟨m, hm⟩ : ∃ m, modeOf k = some m := by
        rw [← Option.isSome_iff_exists, ← validSel_eq_isSome_modeOf]
        simpa [validSel] using ((valid_iff k b sp).1 hv).1
      exact .inl ⟨k, b, sp, m, hk, hb, hs, hv, hm, step_of_valid s k b sp hk hb hs m hm hv⟩
  · exact .inr ⟨not_valid_of_undriven s h, step_undriven s h⟩

/- ## Coherence of what the step leaves -/

/-- In the valid domain `ENC` holds of the frame of the values (00_scope.md R12). -/
theorem enc_frameOf (k b sp : PortBits) (m : Mode) (hm : modeOf k = some m)
    (hv : valid k b sp = true) : Enc k b sp (frameOf m b.toNat sp.toNat) := by
  rw [Enc, if_pos hv]
  exact ⟨m, hm, rfl⟩

/-- Where the inputs are not valid, coherence asks for the start marker alone (30_encoding.md R51). -/
theorem coherent_iff_of_not_valid (s : State) (h : ¬s.Valid) :
    s.Coherent ↔ s.out.byte0 = 0xFA#8 := by
  rcases driven_or_undriven s with ⟨k, b, sp, hk, hb, hs⟩ | hu
  · rw [valid_iff_of_driven s k b sp hk hb hs] at h
    rw [coherent_iff_of_driven s k b sp hk hb hs, Enc, if_neg h]
  · unfold State.Coherent
    split
    next hk hb hs => simp [hk, hb, hs] at hu
    next => rfl

/-- A draw leaves the validity of the inputs as it is. -/
@[simp] theorem valid_drawOut_iff (s : State) : s.drawOut.Valid ↔ s.Valid := Iff.rfl

/-- The level's port value reads back as the level (30_encoding.md R44). -/
@[simp] theorem bits_toNat (l : Level) : l.bits.toNat = l.val := by
  have ⟨_, hmax⟩ := l.inRange
  rw [Level.bits, BitVec.toNat_ofNat]
  omega

/-- A level's port value is in the domain. -/
theorem validLevel_bits (l : Level) : validLevel l.bits = true := by
  rw [validLevel_iff, bits_toNat]
  exact l.inRange

/-- The select value of a mode names that mode (30_encoding.md R43). -/
@[simp] theorem modeOf_modeSel (m : Mode) : modeOf (Sys2Proof.modeSel m) = some m := by
  cases m <;> rfl

/-- A mode and two levels are a valid configuration (00_scope.md R11). -/
theorem valid_modeSel_bits (m : Mode) (b sp : Level) :
    valid (Sys2Proof.modeSel m) b.bits sp.bits = true := by
  simp [valid, validSel_eq_isSome_modeOf, validLevel_bits]

/-- Every step answers a coherent state with the same inputs. -/
theorem step_coherent (s : State) : ∃ t, step s = .next t ∧ t.SameInputs s ∧ t.Coherent := by
  rcases step_cases s with ⟨k, b, sp, m, hk, hb, hs, hv, hm, hstep⟩ | ⟨hv, hstep⟩
  · refine ⟨_, hstep, ⟨rfl, rfl, rfl⟩, ?_⟩
    rw [coherent_iff_of_driven (s.showFrame (frameOf m b.toNat sp.toNat)) k b sp hk hb hs]
    exact enc_frameOf k b sp m hm hv
  · refine ⟨_, hstep, ⟨rfl, rfl, rfl⟩, ?_⟩
    rw [coherent_iff_of_not_valid _ ((valid_drawOut_iff s).not.2 hv), drawOut_out, drawnFrame_byte0]

/-- A mode and two levels on the ports: the step shows their frame (00_scope.md R12). -/
theorem step_presentConfig (m : Mode) (b sp : Level) (s : State) :
    step (s.presentConfig (Sys2Proof.modeSel m) b.bits sp.bits) =
      .next ((s.presentConfig (Sys2Proof.modeSel m) b.bits sp.bits).showFrame
        (encodeConfig m b sp)) := by
  rw [step_of_valid _ _ _ _ rfl rfl rfl m (modeOf_modeSel m) (valid_modeSel_bits m b sp),
    bits_toNat, bits_toNat, encodeConfig]

/-- Settles O28: coherence is what every branch of the step leaves, and `encode` is its branch on valid
inputs. -/
theorem stepRefinesTheEncodeFunction : Obligations.StepRefinesTheEncodeFunction :=
  ⟨step_coherent, step_presentConfig⟩

end Sys2Proof.Machine
end

section
/-! SUPPORT. Counting the 512 input values (00_scope.md R11; 30_encoding.md R49; 42_checksum.md R80). The
validity of a configuration is one condition on each field, so the values that meet it are a product, and
each count of values is a product of three counts over one port. -/

namespace Sys2Proof.Machine

/-- A condition on each component filters a product of lists to the product of the filtered lists. -/
theorem filter_product {α β : Type} (p : α → Bool) (q : β → Bool) (l : List α) (m : List β) :
    (l ×ˢ m).filter (fun x => p x.1 && q x.2) = l.filter p ×ˢ m.filter q := by
  induction l with
  | nil => rfl
  | cons a l ih =>
    rw [List.product_cons, List.filter_append, ih, List.filter_map]
    cases h : p a <;> simp [h, Function.comp_def]

/-- The eight values of an input port (10_state.md R20). -/
def portValues : List PortBits := [0#3, 1#3, 2#3, 3#3, 4#3, 5#3, 6#3, 7#3]

/-- The 512 values of the three input ports (10_state.md R22). -/
def inputValues : List (PortBits × PortBits × PortBits) := portValues ×ˢ portValues ×ˢ portValues

@[simp] theorem length_portValues : portValues.length = 8 := rfl

/-- Three selects are reserved (30_encoding.md R49). -/
@[simp] theorem length_filter_not_validSel_portValues :
    (portValues.filter fun k => !validSel k).length = 3 := rfl

/-- Three values of a level port are no level (30_encoding.md R49). -/
@[simp] theorem length_filter_not_validLevel_portValues :
    (portValues.filter fun v => !validLevel v).length = 3 := rfl

/-- The checksum of a configuration whose select names a mode. -/
def configChecksum (w : PortBits × PortBits × PortBits) : Option Nat :=
  (modeOf w.1).map fun m =>
    (checksum (code m) ((inv w.2.1).setWidth 8) ((inv w.2.2).setWidth 8)).toNat

/-- The product of the three ports, as nested choices of one value after another. -/
theorem inputValues_eq_flatMap : inputValues =
    portValues.flatMap fun k => portValues.flatMap fun b => portValues.map fun sp => (k, b, sp) := by
  simp [inputValues, SProd.sprod, List.product, List.map_flatMap, Function.comp_def]

/-- A condition on each field selects a product of the values it selects at each port. -/
theorem filter_inputValues (p q r : PortBits → Bool) :
    inputValues.filter (fun w => p w.1 && (q w.2.1 && r w.2.2)) =
      portValues.filter p ×ˢ portValues.filter q ×ˢ portValues.filter r := by
  rw [inputValues, filter_product p fun w : PortBits × PortBits => q w.1 && r w.2, filter_product]

/-- How many input values meet a condition on each field. -/
theorem length_filter_inputValues (p q r : PortBits → Bool) :
    (inputValues.filter fun w => p w.1 && (q w.2.1 && r w.2.2)).length =
      (portValues.filter p).length *
        ((portValues.filter q).length * (portValues.filter r).length) := by
  rw [filter_inputValues, List.length_product, List.length_product]

theorem length_inputValues : inputValues.length = 512 := by
  rw [inputValues, List.length_product, List.length_product, length_portValues]

/-- The valid domain is the five selects by the five levels by the five levels (00_scope.md R11). -/
theorem filter_valid_inputValues : inputValues.filter (fun w => valid w.1 w.2.1 w.2.2) =
    [0#3, 1#3, 2#3, 3#3, 4#3] ×ˢ [1#3, 2#3, 3#3, 4#3, 5#3] ×ˢ [1#3, 2#3, 3#3, 4#3, 5#3] := by
  simp only [valid, Bool.and_assoc]
  rw [filter_inputValues]
  rfl

theorem length_filter_valid :
    (inputValues.filter fun w => valid w.1 w.2.1 w.2.2).length = 125 := by
  rw [filter_valid_inputValues, List.length_product, List.length_product]
  rfl

/-- The values out of domain are the others. -/
theorem length_filter_not_valid :
    (inputValues.filter fun w => !valid w.1 w.2.1 w.2.2).length = 387 := by
  have htotal := List.length_eq_length_filter_add (l := inputValues)
    fun w => valid w.1 w.2.1 w.2.2
  rw [length_inputValues, length_filter_valid] at htotal
  omega

theorem length_filter_not_validSel : (inputValues.filter fun w => !validSel w.1).length = 192 := by
  simpa using length_filter_inputValues (fun k => !validSel k) (fun _ => true) fun _ => true

theorem length_filter_not_validLevel_brightness :
    (inputValues.filter fun w => !validLevel w.2.1).length = 192 := by
  simpa using length_filter_inputValues (fun _ => true) (fun b => !validLevel b) fun _ => true

theorem length_filter_not_validLevel_speed :
    (inputValues.filter fun w => !validLevel w.2.2).length = 192 := by
  simpa using length_filter_inputValues (fun _ => true) (fun _ => true) fun s => !validLevel s

/-- The frequencies of the thirteen checksums (42_checksum.md R80), over the 125 valid values. -/
theorem checksum_frequencies :
    [0xFD, 0xFE, 0xFF, 0, 1, 2, 3, 4, 5, 6, 7, 8, 9].map (fun c =>
        ((inputValues.filter fun w => valid w.1 w.2.1 w.2.2).map configChecksum).count (some c)) =
      [1, 3, 6, 10, 15, 18, 19, 18, 15, 10, 6, 3, 1] := by
  rw [filter_valid_inputValues]
  decide

/-- Settles O14: the input values are a product of three ports, and so is the valid domain. -/
theorem domainAndChecksumCounts : Obligations.DomainAndChecksumCounts := by
  unfold Obligations.DomainAndChecksumCounts
  intro ports words sums
  have hwords : words = inputValues := inputValues_eq_flatMap.symm
  have hsums :
      sums = (inputValues.filter fun w => valid w.1 w.2.1 w.2.2).map configChecksum := by
    rw [← hwords]
    rfl
  rw [hsums, hwords, List.length_map]
  exact ⟨length_inputValues, length_filter_valid, length_filter_not_valid,
    length_filter_not_validSel, length_filter_not_validLevel_brightness,
    length_filter_not_validLevel_speed, checksum_frequencies⟩

end Sys2Proof.Machine
end

section
/-! SUPPORT. The words on the ports and how they come to be evaluated: the two flat views (10_state.md R22),
a configuration word through its bytes, and what a drive followed by the settling time leaves
(10_state.md R24; 20_memory.md R35). -/

namespace Sys2Proof.Machine

/- ## The flat views -/

/-- Two words side by side as a number: the left one stands above the right one. -/
theorem toNat_append_eq_add {m n : Nat} (x : BitVec m) (y : BitVec n) :
    (x ++ y).toNat = 2 ^ n * x.toNat + y.toNat := by
  rw [BitVec.toNat_append, ← Nat.shiftLeft_add_eq_or_of_lt y.isLt, Nat.shiftLeft_eq, Nat.mul_comm]

/-- The configuration word as a number (30_encoding.md R41). -/
theorem cfgWord_toNat (k b s : PortBits) :
    (cfgWord k b s).toNat = 64 * k.toNat + 8 * b.toNat + s.toNat := by
  rw [cfgWord, toNat_append_eq_add, toNat_append_eq_add]
  omega

/-- Reading above the last eight bits of a word does not see them. -/
theorem extractLsb'_append_byte {n : Nat} (x : BitVec n) (y : Byte) (start : Nat) :
    (x ++ y).extractLsb' (start + 8) 8 = x.extractLsb' start 8 := by
  rw [BitVec.extractLsb'_append_eq_of_le (Nat.le_add_left 8 start), Nat.add_sub_cancel]

/-- Each byte of a frame stands in its own eight bits of the flat view (10_state.md R22). -/
theorem extractLsb'_flat (f : Frame) :
    f.flat.extractLsb' 32 8 = f.byte0 ∧ f.flat.extractLsb' 24 8 = f.byte1 ∧
      f.flat.extractLsb' 16 8 = f.byte2 ∧ f.flat.extractLsb' 8 8 = f.byte3 ∧
      f.flat.extractLsb' 0 8 = f.byte4 := by
  refine ⟨?_, ?_, ?_, ?_, BitVec.extractLsb'_append_eq_right⟩
  · rw [Frame.flat, extractLsb'_append_byte _ _ 24, extractLsb'_append_byte _ _ 16,
      extractLsb'_append_byte _ _ 8, BitVec.extractLsb'_append_eq_left]
  · rw [Frame.flat, extractLsb'_append_byte _ _ 16, extractLsb'_append_byte _ _ 8,
      extractLsb'_append_byte _ _ 0, BitVec.extractLsb'_append_eq_right]
  · rw [Frame.flat, extractLsb'_append_byte _ _ 8, extractLsb'_append_byte _ _ 0,
      BitVec.extractLsb'_append_eq_right]
  · rw [Frame.flat, extractLsb'_append_byte _ _ 0, BitVec.extractLsb'_append_eq_right]

/-- Settles O8: both views are words side by side, so a field is read by position. -/
theorem flatViewsOfThePorts : Obligations.FlatViewsOfThePorts :=
  ⟨cfgWord_toNat, extractLsb'_flat, rfl⟩

/- ## A configuration word through its bytes -/

/-- The second byte of a configuration word holds bit 8 alone. -/
theorem cfgWord_high_lt (w : CfgWord) : ((w >>> 8).setWidth 8 : Byte).toNat < 2 := by
  have hw := w.isLt
  rw [BitVec.toNat_setWidth, BitVec.toNat_ushiftRight, Nat.shiftRight_eq_div_pow]
  omega

/-- The two bytes of a configuration word side by side are the word. -/
theorem setWidth_high_append_low (w : CfgWord) :
    (((w >>> 8).setWidth 8 : Byte) ++ (w.setWidth 8 : Byte)).setWidth 9 = w := by
  have hw := w.isLt
  apply BitVec.eq_of_toNat_eq
  rw [BitVec.toNat_setWidth, toNat_append_eq_add, BitVec.toNat_setWidth, BitVec.toNat_setWidth,
    BitVec.toNat_ushiftRight, Nat.shiftRight_eq_div_pow]
  omega

/-- The decoder reads a configuration word back from its bytes (30_encoding.md R41). -/
theorem decode_cfgBytes (w : CfgWord) : decode (cfgBytes w) = .ok (decodeCfg w) := by
  rw [cfgBytes, decode, if_pos (cfgWord_high_lt w), setWidth_high_append_low]

/-- Settles O15: the bytes of the word on the ports decode to the instruction that the step runs. -/
theorem stepRunsThePresentedInstruction : Obligations.StepRunsThePresentedInstruction := by
  refine ⟨fun s k b sp i hk hb hs hdec => ?_, step_undriven⟩
  rw [decode_cfgBytes, decodeCfg_cfgWord] at hdec
  cases hdec
  exact step_driven s k b sp hk hb hs

/- ## Driving and settling -/

/-- After a drive the input ports carry the levels of the move, whether or not one of them changed
(70_reset_and_hazards.md R116). -/
theorem drive_sameInputs_setPorts (s : State) (m : ProducerMove) :
    (s.drive m).SameInputs (s.setPorts m) := by
  rcases drive_cases s m with ⟨hsame, hdrive⟩ | ⟨-, hdrive⟩
  · have hports : s.setPorts m = s := beq_iff_eq.1 hsame
    rw [hdrive, hports]
    exact ⟨rfl, rfl, rfl⟩
  · rw [hdrive]
    exact ⟨rfl, rfl, rfl⟩

/-- A drive acts on the block as the producer's move does. -/
@[simp] theorem apply_drive_block (y : System) (m : ProducerMove) :
    (y.apply (.drive m)).block = y.block.drive m := by
  rcases drive_cases y.block m with ⟨hsame, hdrive⟩ | ⟨hchanged, hdrive⟩
  · rw [apply_drive_unchanged y m hsame, hdrive]
  · rw [apply_drive_changed y m hchanged, hdrive]

/-- A block with valid inputs settles to the frame of their values (43_assembly.md R85). -/
theorem settle_of_valid (s : State) (k b sp : PortBits) (hk : s.modeSel = .driven k)
    (hb : s.brightness = .driven b) (hs : s.speed = .driven sp) (m : Mode)
    (hm : modeOf k = some m) (hv : valid k b sp = true) :
    s.settle = s.showFrame (frameOf m b.toNat sp.toNat) :=
  settle_of_step _ _ (step_of_valid s k b sp hk hb hs m hm hv)

/-- From any system at all, driving a valid configuration and waiting `T_PD` gives its frame: the inputs
are the driven ones, and the settled outputs depend on nothing else (20_memory.md R35, R38). -/
theorem run_drive_wait_out (y : System) (k b sp : PortBits) (m : Mode) (time : Nat)
    (hv : valid k b sp = true) (hm : modeOf k = some m) (ht : Config.settleTime ≤ time) :
    (y.run [.drive (.config k b sp), .wait time]).block.out = frameOf m b.toNat sp.toNat := by
  obtain ⟨hk, hb, hs⟩ := drive_sameInputs_setPorts y.block (.config k b sp)
  rw [System.run, System.run, System.run, apply_wait_settled _ _ (Nat.le_add_left_of_le ht),
    apply_drive_block, settle_of_valid _ k b sp hk hb hs m hm hv, showFrame_out]

/-- Settles O42: the history leaves some system, and what is driven from there does not depend on it. -/
theorem settledFrameWhateverTheHistory : Obligations.SettledFrameWhateverTheHistory := by
  intro es k b sp m time hv hm ht
  rw [run_append]
  exact run_drive_wait_out _ k b sp m time hv hm ht

end Sys2Proof.Machine
end

section
/-! SUPPORT. The block between its producer and its consumer (20_memory.md R30 to R38; 70_reset_and_hazards.md
R118, R119): coherent outputs are settled ones, an invariant of the events holds in every run and at every
sample, and what the consumer takes of a settled frame. -/

namespace Sys2Proof.Machine

/- ## Coherence, settled -/

/-- In the valid domain `ENC` holds of one frame and of no other (00_scope.md R12). -/
theorem enc_iff_of_valid (k b sp : PortBits) (f : Frame) (m : Mode) (hm : modeOf k = some m)
    (hv : valid k b sp = true) : Enc k b sp f ↔ f = frameOf m b.toNat sp.toNat := by
  simp [Enc, hv, hm]

/-- Coherent outputs show the start marker, whatever the inputs are (30_encoding.md R51). -/
theorem byte0_of_coherent (s : State) (hc : s.Coherent) : s.out.byte0 = 0xFA#8 := by
  rcases step_cases s with ⟨k, b, sp, m, hk, hb, hs, hv, hm, -⟩ | ⟨hv, -⟩
  · rw [coherent_iff_of_driven s k b sp hk hb hs, enc_iff_of_valid k b sp s.out m hm hv] at hc
    rw [hc, frameOf]
  · exact (coherent_iff_of_not_valid s hv).1 hc

/-- Validity is of the inputs alone. -/
theorem State.SameInputs.valid_iff {s t : State} (h : s.SameInputs t) : s.Valid ↔ t.Valid := by
  obtain ⟨hk, hb, hs⟩ := h
  simp only [State.Valid, hk, hb, hs]

/-- A step from valid inputs and coherent outputs changes nothing: the frame it shows is the one that is
there (20_memory.md R32). -/
theorem step_of_valid_coherent (s : State) (hv : s.Valid) (hc : s.Coherent) :
    step s = .next s := by
  rcases step_cases s with ⟨k, b, sp, m, hk, hb, hs, hval, hm, hstep⟩ | ⟨hinvalid, -⟩
  · rw [coherent_iff_of_driven s k b sp hk hb hs, enc_iff_of_valid k b sp s.out m hm hval] at hc
    rw [hstep, ← hc, State.showFrame]
  · exact absurd hv hinvalid

/-- A settled block is coherent, whatever it was before (20_memory.md R35). -/
theorem settle_coherent (s : State) : s.settle.Coherent := by
  obtain ⟨t, hstep, -, hc⟩ := step_coherent s
  rwa [settle_of_step s t hstep]

/- ## Invariants of runs and of samples -/

/-- What every event of a run keeps, the run keeps. -/
theorem run_induction {P : System → Prop} (es : List Event)
    (hkeep : ∀ e ∈ es, ∀ y, P y → P (y.apply e)) (y : System) (h : P y) : P (y.run es) := by
  induction es generalizing y with
  | nil => exact h
  | cons e es ih =>
    rw [List.forall_mem_cons] at hkeep
    exact ih hkeep.2 (y.apply e) (hkeep.1 y h)

/-- The bytes taken in a run are the one of its first event, where that is a sample, and those of the rest. -/
theorem mem_taken_cons (y : System) (e : Event) (es : List Event) (p : Fin 5 × Byte) :
    p ∈ y.taken (e :: es) ↔
      (e = .sample p.1 ∧ p.2 = y.block.sample p.1) ∨ p ∈ (y.apply e).taken es := by
  cases e with
  | drive m => simp [System.taken]
  | wait t => simp [System.taken]
  | sample i =>
    rw [System.taken, List.mem_cons, apply_sample, Event.sample.injEq]
    refine or_congr ⟨?_, ?_⟩ Iff.rfl
    · rintro rfl
      exact ⟨rfl, rfl⟩
    · rintro ⟨rfl, hbyte⟩
      exact Prod.ext rfl hbyte

/-- Every byte taken in a run is sampled from a system that has what every event of the run keeps. -/
theorem exists_system_of_mem_taken {P : System → Prop} (es : List Event)
    (hkeep : ∀ e ∈ es, ∀ y, P y → P (y.apply e)) (y : System) (h : P y) (p : Fin 5 × Byte)
    (hp : p ∈ y.taken es) : ∃ z, P z ∧ p.2 = z.block.sample p.1 := by
  induction es generalizing y with
  | nil => cases hp
  | cons e es ih =>
    rw [List.forall_mem_cons] at hkeep
    rcases (mem_taken_cons y e es p).1 hp with ⟨-, hbyte⟩ | hrest
    · exact ⟨y, h, hbyte⟩
    · exact ih hkeep.2 (y.apply e) (hkeep.1 y h) hrest

/- ## Any events -/

/-- Each event keeps the invariant: a change of an input and a short wait leave the block unsettled with its
start marker, and a wait that reaches `T_PD` leaves it coherent (70_reset_and_hazards.md R118). -/
theorem apply_preserves_inv (e : Event) (y : System) (h : y.Inv) : (y.apply e).Inv := by
  cases e with
  | drive m =>
    cases hm : y.block.unchangedBy m with
    | true => rwa [apply_drive_unchanged y m hm]
    | false =>
      rw [apply_drive_changed y m hm]
      exact ⟨rfl, fun hsettled => absurd hsettled (Nat.not_le.2 settleTime_pos)⟩
  | wait t =>
    by_cases ht : Config.settleTime ≤ y.stableFor + t
    · have hc := settle_coherent y.block
      rw [apply_wait_settled y t ht]
      exact ⟨byte0_of_coherent _ hc, fun _ => hc⟩
    · rw [apply_wait_unsettled y t ht]
      exact ⟨rfl, fun hsettled => absurd hsettled ht⟩
  | sample i => exact h

/-- Settles O40: each event keeps the invariant, so every run does. -/
theorem everyEventKeepsTheOutputsRight : Obligations.EveryEventKeepsTheOutputsRight :=
  fun y es h => run_induction es (fun e _ => apply_preserves_inv e) y h

/- ## Held inputs -/

/-- The block is settled and in state `s`. -/
def System.SettledAt (s : State) (y : System) : Prop :=
  y.block = s ∧ Config.settleTime ≤ y.stableFor

/-- While valid inputs are held, no event moves a settled block with coherent outputs
(70_reset_and_hazards.md R119). -/
theorem apply_preserves_settledAt (s : State) (hv : s.Valid) (hc : s.Coherent) (e : Event)
    (he : e.holds = true) (y : System) (h : y.SettledAt s) : (y.apply e).SettledAt s := by
  obtain ⟨rfl, hstable⟩ := h
  cases e with
  | drive m => cases he
  | wait t =>
    have hstill : Config.settleTime ≤ y.stableFor + t := Nat.le_add_right_of_le hstable
    rw [apply_wait_settled y t hstill]
    exact ⟨settle_of_step _ _ (step_of_valid_coherent y.block hv hc), hstill⟩
  | sample i => exact ⟨rfl, hstable⟩

/-- Settles O43: the held block stays in the state it starts in, at every sample and at the end. -/
theorem heldInputsGiveOneFrame : Obligations.HeldInputsGiveOneFrame := by
  intro y es hv hc hstable hholds
  have hstart : y.SettledAt y.block := ⟨rfl, hstable⟩
  have hkeep : ∀ e ∈ es, ∀ z : System, z.SettledAt y.block → (z.apply e).SettledAt y.block :=
    fun e he => apply_preserves_settledAt y.block hv hc e (List.all_eq_true.1 hholds e he)
  refine ⟨fun p hp => ?_, ?_⟩
  · obtain ⟨z, ⟨hblock, -⟩, hbyte⟩ := exists_system_of_mem_taken es hkeep y hstart p hp
    rw [hbyte, hblock, State.sample]
  · obtain ⟨hblock, -⟩ := run_induction es hkeep y hstart
    rw [hblock]

/- ## One step, and one more -/

/-- Settles O30: every step leaves coherent outputs and the same inputs. -/
theorem stepKeepsCoherence : Obligations.StepKeepsCoherence := by
  intro s t _ hst
  obtain ⟨u, hsu, hinputs, hc⟩ := step_coherent s
  cases hst.symm.trans hsu
  exact ⟨hc, hinputs⟩

/-- Settles O38: the first step leaves the inputs valid and the outputs coherent, and the second then
changes nothing. -/
theorem evaluatingAgainChangesNothing : Obligations.EvaluatingAgainChangesNothing := by
  intro s hv
  obtain ⟨t, hstep, hinputs, hc⟩ := step_coherent s
  have hvt : t.Valid := hinputs.valid_iff.2 hv
  exact ⟨t, hstep, hvt, step_of_valid_coherent t hvt hc⟩

/- ## Moves of the producer -/

/-- A move changes nothing exactly where it leaves every port at its level. -/
theorem unchangedBy_iff (s : State) (m : ProducerMove) :
    s.unchangedBy m = true ↔ s.setPorts m = s := beq_iff_eq

/-- Settles O39: a drive is a draw on the new levels or nothing at all, and either way the ports then carry
the levels of the move. -/
theorem drivingAnInputUnsettlesFourBytes : Obligations.DrivingAnInputUnsettlesFourBytes := by
  refine ⟨fun s m hne => ?_, fun s m heq => if_pos ((unchangedBy_iff s m).2 heq),
    fun s l => drive_sameInputs_setPorts s (.modeSel l), fun s l => ?_, fun s l => ?_,
    fun s k b sp => drive_sameInputs_setPorts s (.config k b sp)⟩
  · have hdrive : s.drive m = (s.setPorts m).drawOut := if_neg ((unchangedBy_iff s m).not.2 hne)
    rw [hdrive, State.drawOut, setPorts_draws, drawnFrame]
  · obtain ⟨hmode, hbright, hspeed⟩ := drive_sameInputs_setPorts s (.brightness l)
    exact ⟨hbright, hmode, hspeed⟩
  · obtain ⟨hmode, hbright, hspeed⟩ := drive_sameInputs_setPorts s (.speed l)
    exact ⟨hspeed, hmode, hbright⟩

/- ## Samples of settled frames -/

/-- Samples in a row read one state of the block, and leave it for what follows (20_memory.md R30, R32). -/
theorem taken_samples_append (y : System) (ports : List (Fin 5)) (es : List Event) :
    y.taken (ports.map .sample ++ es) =
      ports.map (fun i => (i, y.block.sample i)) ++ y.taken es := by
  induction ports with
  | nil => rfl
  | cons i ports ih => exact congrArg ((i, y.block.sample i) :: ·) ih

/-- From any system, a valid configuration driven for `T_PD` and then sampled gives bytes of its frame,
before what the events after that give (20_memory.md R35). -/
theorem bytes_taken_after_drive_wait (y : System) (k b sp : PortBits) (m : Mode) (time : Nat)
    (ports : List (Fin 5)) (es : List Event) (hv : valid k b sp = true) (hm : modeOf k = some m)
    (ht : Config.settleTime ≤ time) :
    (y.taken (.drive (.config k b sp) :: .wait time :: (ports.map .sample ++ es))).map Prod.snd =
      ports.map (frameOf m b.toNat sp.toNat).byte ++
        ((y.run [.drive (.config k b sp), .wait time]).taken es).map Prod.snd := by
  rw [← run_drive_wait_out y k b sp m time hv hm ht, System.taken, System.taken,
    taken_samples_append, List.map_append, List.map_map]
  rfl

/-- Settles O45: bytes 0 and 1 are those of one settled frame and bytes 2 to 4 those of another. -/
theorem changedInputsCanTearAFrame : Obligations.ChangedInputsCanTearAFrame := by
  intro time ht
  refine ⟨?_, by decide⟩
  have rainbowThen := bytes_taken_after_drive_wait System.powerUp 2#3 1#3 1#3 .rainbow time [0, 1]
    (.drive (.config 0#3 5#3 5#3) :: .wait time :: ([2, 3, 4].map .sample ++ [])) rfl rfl ht
  rw [bytes_taken_after_drive_wait _ 0#3 5#3 5#3 .off time [2, 3, 4] [] rfl rfl ht] at rainbowThen
  exact rainbowThen

end Sys2Proof.Machine
end

section
/-! SUPPORT. The decoder and the encoder (30_encoding.md R40 to R54): a word of either format through its
bytes in both directions, everything the decoder accepts, what it rejects, and the words of the opcode
table. -/

namespace Sys2Proof.Machine

/- ## The fields of a configuration word -/

/-- The eight values of an input port (10_state.md R20). -/
theorem portBits_cases (k : PortBits) :
    k = 0#3 ∨ k = 1#3 ∨ k = 2#3 ∨ k = 3#3 ∨ k = 4#3 ∨ k = 5#3 ∨ k = 6#3 ∨ k = 7#3 := by
  decide +revert

/-- The fields of a configuration word stand side by side in it (30_encoding.md R41). -/
theorem toNat_eq_fields (w : CfgWord) :
    w.toNat = 64 * (cfgModeSel w).toNat + 8 * (cfgBrightness w).toNat + (cfgSpeed w).toNat := by
  have hw := w.isLt
  simp only [cfgModeSel, cfgBrightness, cfgSpeed, BitVec.extractLsb'_toNat,
    Nat.shiftRight_eq_div_pow]
  omega

/-- A configuration word is made of its fields: none of its nine bits is outside them
(30_encoding.md R41). -/
theorem cfgWord_fields (w : CfgWord) :
    cfgWord (cfgModeSel w) (cfgBrightness w) (cfgSpeed w) = w := by
  apply BitVec.eq_of_toNat_eq
  rw [cfgWord_toNat, ← toNat_eq_fields]

/- ## Every instruction is of one of the two formats -/

/-- An instruction is that of three port values or a `FRAME` row (30_encoding.md R40). -/
theorem instr_cases (i : Instr) :
    (∃ k b sp, i = instrOfFields k b sp) ∨ ∃ m wb ws c, i = .frame m wb ws c := by
  cases i with
  | encOff b sp => exact .inl ⟨0#3, b, sp, rfl⟩
  | encAuto b sp => exact .inl ⟨1#3, b, sp, rfl⟩
  | encRainbow b sp => exact .inl ⟨2#3, b, sp, rfl⟩
  | encBreathing b sp => exact .inl ⟨3#3, b, sp, rfl⟩
  | encColourCycle b sp => exact .inl ⟨4#3, b, sp, rfl⟩
  | reserved5 b sp => exact .inl ⟨5#3, b, sp, rfl⟩
  | reserved6 b sp => exact .inl ⟨6#3, b, sp, rfl⟩
  | reserved7 b sp => exact .inl ⟨7#3, b, sp, rfl⟩
  | frame m wb ws c => exact .inr ⟨m, wb, ws, c, rfl⟩

/-- The encoder writes the instruction of three port values as their word (30_encoding.md R48). -/
theorem encode_instrOfFields (k b sp : PortBits) :
    encode (instrOfFields k b sp) = cfgBytes (cfgWord k b sp) := by
  rcases portBits_cases k with rfl | rfl | rfl | rfl | rfl | rfl | rfl | rfl <;> rfl

/-- The encoder writes back the word that an instruction was read from. -/
theorem encode_decodeCfg (w : CfgWord) : encode (decodeCfg w) = cfgBytes w := by
  rw [decodeCfg, encode_instrOfFields, cfgWord_fields]

/- ## A `FRAME` through its bytes -/

/-- A three-bit field widened to a byte has bits 7 to 3 clear (30_encoding.md R42). -/
theorem setWidth_toNat_lt (v : PortBits) : (v.setWidth 8 : Byte).toNat < 8 := by
  have hv := v.isLt
  rw [BitVec.toNat_setWidth]
  omega

/-- A three-bit field reads back from its byte. -/
theorem setWidth_setWidth_field (v : PortBits) : (v.setWidth 8 : Byte).setWidth 3 = v := by
  rw [BitVec.setWidth_setWidth_of_le _ (by decide), BitVec.setWidth_eq]

/-- A byte with bits 7 to 3 clear is its low three bits widened. -/
theorem setWidth_setWidth_of_lt (x : Byte) (h : x.toNat < 8) :
    ((x.setWidth 3 : PortBits).setWidth 8 : Byte) = x := by
  apply BitVec.eq_of_toNat_eq
  rw [BitVec.toNat_setWidth, BitVec.toNat_setWidth]
  omega

/-- The decoder reads a `FRAME` back from its bytes (30_encoding.md R42). -/
theorem decode_encode_frame (m wb ws : PortBits) (c : Byte) :
    decode (encode (.frame m wb ws c)) = .ok (.frame m wb ws c) := by
  have hm := setWidth_toNat_lt m
  have hb := setWidth_toNat_lt wb
  have hs := setWidth_toNat_lt ws
  rw [encode, decode, decodeFrame, if_pos rfl, if_pos ⟨hm, hb, hs⟩, setWidth_setWidth_field,
    setWidth_setWidth_field, setWidth_setWidth_field]

/- ## Both directions of the round trip -/

/-- Settles O1: a configuration word is read back by its fields, a frame byte by byte. -/
theorem decodeReadsBackEncode : Obligations.DecodeReadsBackEncode := by
  intro i
  rcases instr_cases i with ⟨k, b, sp, rfl⟩ | ⟨m, wb, ws, c, rfl⟩
  · rw [encode_instrOfFields, decode_cfgBytes, decodeCfg_cfgWord]
  · exact decode_encode_frame m wb ws c

/-- Two bytes with no bit above the nine are the bytes of the word they make (30_encoding.md R41). -/
theorem cfgBytes_setWidth_append (lo hi : Byte) (h : hi.toNat < 2) :
    cfgBytes ((hi ++ lo).setWidth 9) = [lo, hi] := by
  have hlo := lo.isLt
  have hword : ((hi ++ lo).setWidth 9 : CfgWord).toNat = 256 * hi.toNat + lo.toNat := by
    rw [BitVec.toNat_setWidth, toNat_append_eq_add]
    omega
  have hlow : ((hi ++ lo).setWidth 9 : CfgWord).setWidth 8 = lo := by
    apply BitVec.eq_of_toNat_eq
    rw [BitVec.toNat_setWidth, hword]
    omega
  have hhigh : (((hi ++ lo).setWidth 9 : CfgWord) >>> 8).setWidth 8 = hi := by
    apply BitVec.eq_of_toNat_eq
    rw [BitVec.toNat_setWidth, BitVec.toNat_ushiftRight, hword, Nat.shiftRight_eq_div_pow]
    omega
  rw [cfgBytes, hlow, hhigh]

/-- Five bytes that the decoder accepts are the bytes of the `FRAME` it reads (30_encoding.md R42). -/
theorem encode_of_decodeFrame_ok (b0 b1 b2 b3 b4 : Byte) (i : Instr)
    (h : decodeFrame b0 b1 b2 b3 b4 = .ok i) : encode i = [b0, b1, b2, b3, b4] := by
  unfold decodeFrame at h
  split_ifs at h with hstart hhigh
  obtain ⟨h1, h2, h3⟩ := hhigh
  cases h
  rw [encode, hstart, setWidth_setWidth_of_lt b1 h1, setWidth_setWidth_of_lt b2 h2,
    setWidth_setWidth_of_lt b3 h3]

/-- Settles O2: the decoder accepts two lengths, and in each of them its checks leave no bit unread. -/
theorem encodeWritesBackDecode : Obligations.EncodeWritesBackDecode := by
  intro bytes i h
  unfold decode at h
  split at h
  next lo hi =>
    split_ifs at h with hbit
    cases h
    rw [encode_decodeCfg, cfgBytes_setWidth_append lo hi hbit]
  next b0 b1 b2 b3 b4 => exact encode_of_decodeFrame_ok b0 b1 b2 b3 b4 i h
  next => cases h

/- ## What the decoder rejects -/

/-- Settles O3: the length, the tenth bit, the start marker and the high bits, in the order in which the
decoder looks at them. -/
theorem decodeRejectsByName : Obligations.DecodeRejectsByName := by
  refine ⟨fun bytes htwo hfive => ?_, fun lo hi hbit => if_neg (Nat.not_lt.2 hbit),
    fun b0 b1 b2 b3 b4 hstart => if_neg hstart, fun b1 b2 b3 b4 hhigh => ?_⟩
  · unfold decode
    split
    next => exact absurd rfl htwo
    next => exact absurd rfl hfive
    next => rfl
  · have hnot : ¬(b1.toNat < 8 ∧ b2.toNat < 8 ∧ b3.toNat < 8) := by omega
    rw [decode, decodeFrame, if_pos rfl, if_neg hnot]

/- ## The words of the opcode table -/

/-- Under the mask of the table a word is its select alone (30_encoding.md R48). -/
theorem cfgWord_and_cfgMask (k b sp : PortBits) :
    cfgWord k b sp &&& cfgMask = cfgWord k 0#3 0#3 := by
  have hmask : cfgMask = cfgWord (BitVec.allOnes 3) 0#3 0#3 := rfl
  rw [hmask, cfgWord, cfgWord, BitVec.and_append, BitVec.and_append, BitVec.and_allOnes,
    BitVec.and_zero, BitVec.and_zero, cfgWord]

/-- The row of an instruction is that of its select, whatever its operands are (30_encoding.md R48). -/
theorem mnemonic_instrOfFields (k b sp : PortBits) :
    (instrOfFields k b sp).mnemonic = (instrOfFields k 0#3 0#3).mnemonic := by
  rcases portBits_cases k with rfl | rfl | rfl | rfl | rfl | rfl | rfl | rfl <;> rfl

/-- Each select has one row of the table, by its value and by its mnemonic (30_encoding.md R48). -/
theorem value_iff_mnemonic_of_mem_cfgRows (k : PortBits) :
    ∀ r ∈ cfgRows,
      (cfgWord k 0#3 0#3 = r.value ↔ (instrOfFields k 0#3 0#3).mnemonic = r.mnemonic) := by
  decide +revert

/-- Settles O4: mask and mnemonic both look at the select alone, and the fields are the word's bits. -/
theorem opcodeMapMatchesDecoder : Obligations.OpcodeMapMatchesDecoder := by
  refine ⟨fun w r hr => ?_, fun w => ⟨toNat_eq_fields w, cfgModeSel w, rfl, ?_⟩⟩
  · have hmask : w &&& 0x1C0#9 = cfgWord (cfgModeSel w) 0#3 0#3 := by
      rw [← cfgWord_and_cfgMask _ (cfgBrightness w) (cfgSpeed w), cfgWord_fields, cfgMask]
    rw [hmask, decodeCfg, mnemonic_instrOfFields]
    exact value_iff_mnemonic_of_mem_cfgRows (cfgModeSel w) r hr
  · have hb := (cfgBrightness w).isLt
    have hs := (cfgSpeed w).isLt
    have hw := toNat_eq_fields w
    omega

/-- A table word whose bytes are the encoding of an instruction is decoded to it. -/
theorem decodeTableWord_of_bytes (nbits w : Nat) (i : Instr)
    (h : tableWordBytes nbits w = some (encode i)) : decodeTableWord nbits w = some i := by
  rw [decodeTableWord, h]
  simp only [decodeReadsBackEncode i]

/-- A configuration word of the table has the bytes of the word (30_encoding.md R41). -/
theorem tableWordBytes_cfg (w : CfgWord) : tableWordBytes 16 w.toNat = some (cfgBytes w) := by
  have hw := w.isLt
  have hhigh : BitVec.ofNat 8 (w.toNat / 2 ^ 8) = (w >>> 8).setWidth 8 := by
    apply BitVec.eq_of_toNat_eq
    rw [BitVec.toNat_ofNat, BitVec.toNat_setWidth, BitVec.toNat_ushiftRight,
      Nat.shiftRight_eq_div_pow]
  rw [tableWordBytes, if_pos ⟨Nat.le_refl 16, by omega⟩, hhigh, cfgBytes, BitVec.setWidth,
    BitVec.ofNat_toNat]

/-- A frame of the table has the bytes of the frame, byte 0 from the top (10_state.md R22). -/
theorem tableWordBytes_flat (f : Frame) : tableWordBytes 40 f.flat.toNat = some f.bytes := by
  obtain ⟨h0, h1, h2, h3, h4⟩ := extractLsb'_flat f
  simp only [BitVec.extractLsb', Nat.shiftRight_eq_div_pow] at h0 h1 h2 h3 h4
  rw [pow_zero, Nat.div_one] at h4
  rw [tableWordBytes, if_neg (by omega), if_pos ⟨rfl, f.flat.isLt⟩, h0, h1, h2, h3, h4, Frame.bytes]

/-- The table's numbering of a configuration word is read by the decoder of words. -/
theorem decodeTableWord_cfg (w : CfgWord) : decodeTableWord 16 w.toNat = some (decodeCfg w) :=
  decodeTableWord_of_bytes 16 w.toNat (decodeCfg w)
    (by rw [tableWordBytes_cfg, encode_decodeCfg])

/-- The table's numbering of a frame of the pattern is read as its `FRAME` row. -/
theorem decodeTableWord_frame (m wb ws : PortBits) (c : Byte) :
    decodeTableWord 40
        (Frame.flat ⟨0xFA#8, m.setWidth 8, wb.setWidth 8, ws.setWidth 8, c⟩).toNat =
      some (.frame m wb ws c) :=
  decodeTableWord_of_bytes 40 _ _ (tableWordBytes_flat _)

/-- Settles O5: eight words of the table and a frame, each read by the lemma of its format. -/
theorem writtenOutWordsDecode : Obligations.WrittenOutWordsDecode :=
  ⟨decodeTableWord_cfg 0b000_001_001#9, decodeTableWord_cfg 0b001_011_011#9,
    decodeTableWord_cfg 0b010_001_100#9, decodeTableWord_cfg 0b011_101_100#9,
    decodeTableWord_cfg 0b100_101_001#9, decodeTableWord_cfg 0b101_001_001#9,
    decodeTableWord_cfg 0b110_011_011#9, decodeTableWord_cfg 0b111_111_111#9,
    decodeTableWord_frame 1#3 5#3 2#3 0x02#8⟩

end Sys2Proof.Machine
end

section
/-! SUPPORT. The row `FRAME` and the configuration it stands for (30_encoding.md R42, R53; 43_assembly.md
R84, R95): the well-formed rows are the nets of the valid configurations, assembling them is `ENCODE`,
and the inputs are recovered from the frame. -/

namespace Sys2Proof.Machine

/- ## The rows of the valid configurations -/

/-- The `FRAME` row of a mode and two levels: the nets of `ENCODE` (43_assembly.md R84). -/
def frameRow (m : Mode) (b sp : PortBits) : Instr :=
  .frame ((code m).setWidth 3) (inv b) (inv sp)
    (checksum (code m) ((inv b).setWidth 8) ((inv sp).setWidth 8))

/-- Inverting twice gives the value back (40_range_inversion.md R61). -/
@[simp] theorem inv_inv_eq (v : PortBits) : inv (inv v) = v := sub_sub_cancel Config.invK v

/-- Inversion maps the levels onto the levels (40_range_inversion.md R60). -/
theorem validLevel_inv (v : PortBits) (h : validLevel v = true) : validLevel (inv v) = true := by
  have hrange := (validLevel_iff v).1 h
  rw [validLevel_iff, inv_toNat v h]
  omega

/-- A field of a frame is in range exactly where it is a level (30_encoding.md R42; 00_scope.md R11). -/
theorem wireFieldOk_eq_validLevel (v : PortBits) : wireFieldOk v = validLevel v := rfl

/-- The checksum check of a row asks for the checksum of its fields (42_checksum.md R83). -/
theorem frameSumOk_iff (m wb ws : PortBits) (c : Byte) :
    frameSumOk m wb ws c = true ↔
      c = checksum (m.setWidth 8) (wb.setWidth 8) (ws.setWidth 8) := by
  have hm := m.isLt
  have hb := wb.isLt
  have hs := ws.isLt
  rw [← BitVec.toNat_inj, checksum_toNat, frameSumOk, beq_iff_eq]
  simp only [BitVec.toNat_setWidth, BitVec.toNat_ofNat]
  omega

/-- What a well-formed `FRAME` row is (30_encoding.md R42, R45 to R47). -/
theorem wellFormed_frame_iff (m wb ws : PortBits) (c : Byte) :
    WellFormed (.frame m wb ws c) = true ↔
      validLevel m = true ∧ validLevel wb = true ∧ validLevel ws = true ∧
        c = checksum (m.setWidth 8) (wb.setWidth 8) (ws.setWidth 8) := by
  simp only [WellFormed, wireFieldOk_eq_validLevel, Bool.and_eq_true, frameSumOk_iff, and_assoc]

/-- Three bits hold the code of every mode (41_mode_mapping.md R65). -/
@[simp] theorem setWidth_setWidth_code (m : Mode) :
    (((code m).setWidth 3 : PortBits).setWidth 8 : Byte) = code m := by
  cases m <;> rfl

/-- The code of every mode is 1 to 5 (41_mode_mapping.md R73). -/
theorem validLevel_code (m : Mode) : validLevel ((code m).setWidth 3) = true := by
  cases m <;> rfl

/-- Every code from 1 to 5 is that of a mode (41_mode_mapping.md R73). -/
theorem exists_mode_of_validLevel (v : PortBits) (h : validLevel v = true) :
    ∃ m, (code m).setWidth 3 = v := by
  have hcode : v = 1#3 ∨ v = 2#3 ∨ v = 3#3 ∨ v = 4#3 ∨ v = 5#3 := by decide +revert
  rcases hcode with rfl | rfl | rfl | rfl | rfl
  · exact ⟨.rainbow, rfl⟩
  · exact ⟨.breathing, rfl⟩
  · exact ⟨.colourCycle, rfl⟩
  · exact ⟨.off, rfl⟩
  · exact ⟨.auto, rfl⟩

/-- The nets of a valid configuration are a well-formed row (30_encoding.md R53). -/
theorem wellFormed_frameRow (m : Mode) (b sp : PortBits) (hb : validLevel b = true)
    (hs : validLevel sp = true) : WellFormed (frameRow m b sp) = true := by
  rw [frameRow, wellFormed_frame_iff, setWidth_setWidth_code]
  exact ⟨validLevel_code m, validLevel_inv b hb, validLevel_inv sp hs, rfl⟩

/-- A well-formed row is that of a valid configuration (30_encoding.md R53). -/
theorem exists_config_of_wellFormed (m wb ws : PortBits) (c : Byte)
    (h : WellFormed (.frame m wb ws c) = true) :
    ∃ md b sp, validLevel b = true ∧ validLevel sp = true ∧
      Instr.frame m wb ws c = frameRow md b sp := by
  obtain ⟨hm, hb, hs, rfl⟩ := (wellFormed_frame_iff m wb ws c).1 h
  obtain ⟨md, rfl⟩ := exists_mode_of_validLevel m hm
  refine ⟨md, inv wb, inv ws, validLevel_inv wb hb, validLevel_inv ws hs, ?_⟩
  rw [frameRow, inv_inv_eq, inv_inv_eq, setWidth_setWidth_code]

/-- `ENCODE` on valid levels assembles the row of its nets (43_assembly.md R84, R85). -/
theorem exec_instrOfMode_eq_exec_frameRow (m : Mode) (b sp : PortBits) (s : State)
    (hb : validLevel b = true) (hs : validLevel sp = true) :
    exec (instrOfMode b sp m) s = exec (frameRow m b sp) s := by
  rw [exec_instrOfMode, encodeMode_eq, if_pos ⟨hb, hs⟩, frameRow, exec, execFrame,
    setWidth_setWidth_code]

/-- Settles O25: the well-formed rows are the rows of the valid configurations, and each of these is
executed as its configuration is. -/
theorem encodeIsAssemblyOfItsNets : Obligations.EncodeIsAssemblyOfItsNets := by
  refine ⟨fun md b sp s hb hs => ⟨wellFormed_frameRow md b sp hb hs,
    exec_instrOfMode_eq_exec_frameRow md b sp s hb hs⟩, fun m wb ws c hwf => ?_⟩
  obtain ⟨md, b, sp, hb, hs, hrow⟩ := exists_config_of_wellFormed m wb ws c hwf
  refine ⟨md, b, sp, hb, hs, fun s => ?_⟩
  rw [hrow, exec_instrOfMode_eq_exec_frameRow md b sp s hb hs]

/- ## The way back from a frame -/

/-- The mode is recovered from its code (41_mode_mapping.md R73). -/
@[simp] theorem modeOfCode_code (m : Mode) : modeOfCode (code m) = some m := by
  cases m <;> rfl

/-- A level is recovered from its byte of the frame (40_range_inversion.md R61). -/
@[simp] theorem setWidth_sub_inv (v : PortBits) :
    (6#8 - (inv v).setWidth 8 : Byte).setWidth 3 = v := by
  decide +revert

/-- A valid configuration is recovered from the frame of its nets (43_assembly.md R95). -/
theorem recoverConfig_assemble (m : Mode) (b sp : PortBits) (hb : validLevel b = true)
    (hs : validLevel sp = true) :
    recoverConfig (assemble ⟨code m, inv b, inv sp,
        checksum (code m) ((inv b).setWidth 8) ((inv sp).setWidth 8)⟩) =
      some (Sys2Proof.modeSel m, b, sp) := by
  simp [recoverConfig, assemble, encodeNets_eq, hb, hs]

/- ## Placing a word for the next step -/

/-- A configuration word is placed by driving its three fields (10_state.md R14). -/
theorem presentInstr_instrOfFields (s : State) (k b sp : PortBits) :
    s.presentInstr (instrOfFields k b sp) = s.presentConfig k b sp := by
  rcases portBits_cases k with rfl | rfl | rfl | rfl | rfl | rfl | rfl | rfl <;> rfl

/-- The row of a valid configuration is placed by driving that configuration (43_assembly.md R95). -/
theorem presentInstr_frameRow (s : State) (m : Mode) (b sp : PortBits) (hb : validLevel b = true)
    (hs : validLevel sp = true) :
    s.presentInstr (frameRow m b sp) = s.presentConfig (Sys2Proof.modeSel m) b sp := by
  simp only [frameRow, State.presentInstr, setWidth_setWidth_code,
    recoverConfig_assemble m b sp hb hs]

/-- The step on a presented configuration is its instruction. -/
theorem step_presentConfig_eq_exec (s : State) (k b sp : PortBits) :
    step (s.presentConfig k b sp) = exec (instrOfFields k b sp) (s.presentConfig k b sp) :=
  step_driven _ k b sp rfl rfl rfl

/-- The instruction of a mode's select is the mode's. -/
theorem instrOfFields_modeSel (m : Mode) (b sp : PortBits) :
    instrOfFields (Sys2Proof.modeSel m) b sp = instrOfMode b sp m := by
  rw [instrOfFields, modeOf_modeSel]

/-- Placing a word of the table places the instruction that is decoded from it. -/
theorem withFetchWord_of_decode (s : State) (nbits w : Nat) (i : Instr)
    (h : decodeTableWord nbits w = some i) : s.withFetchWord nbits w = s.presentInstr i := by
  rw [State.withFetchWord, State.presentTableWord, h]

/-- Settles O16: placing a word of either format drives the configuration it stands for. -/
theorem placedWordRunsNext : Obligations.PlacedWordRunsNext := by
  refine ⟨fun s w hw => ?_, fun s m wb ws c hwf => ?_⟩
  · obtain ⟨word, rfl⟩ : ∃ word : CfgWord, word.toNat = w :=
      ⟨BitVec.ofNatLT w hw, BitVec.toNat_ofNatLT w hw⟩
    have hdec := decodeTableWord_cfg word
    refine ⟨decodeCfg word, hdec, ?_⟩
    rw [withFetchWord_of_decode s 16 _ _ hdec, decodeCfg, presentInstr_instrOfFields]
    exact ⟨step_presentConfig_eq_exec s _ _ _, rfl, rfl⟩
  · have hdec := decodeTableWord_frame m wb ws c
    obtain ⟨md, b, sp, hb, hs, hrow⟩ := exists_config_of_wellFormed m wb ws c hwf
    refine ⟨hdec, ?_⟩
    rw [withFetchWord_of_decode s 40 _ _ hdec, hrow, presentInstr_frameRow s md b sp hb hs,
      ← exec_instrOfMode_eq_exec_frameRow md b sp _ hb hs, ← instrOfFields_modeSel]
    exact ⟨step_presentConfig_eq_exec s _ _ _, rfl, rfl⟩

end Sys2Proof.Machine
end

section
/-! SUPPORT. The start marker and the shape of the frame (30_encoding.md R50 to R53): what the step shows
inside and outside the valid domain, and byte 0 in every run. -/

namespace Sys2Proof.Machine

/- ## Outside the valid domain -/

/-- A draw written out: the start marker, the next four free values, and nothing else but the count
(43_assembly.md R86). -/
theorem drawOut_eq (s : State) : s.drawOut = { s with
    out := ⟨0xFA#8, Config.anyByte s.draws, Config.anyByte (s.draws + 1),
      Config.anyByte (s.draws + 2), Config.anyByte (s.draws + 3)⟩, draws := s.draws + 4 } := rfl

/-- Settles O22: with a level at fault there are no nets, and `ENCODE` draws. -/
theorem encFormsOutOfDomainDraw : Obligations.EncFormsOutOfDomainDraw := by
  intro m b sp s hlevels
  rw [exec_instrOfMode, encodeMode_eq, if_neg hlevels, drawOut_eq]

/-- The instruction of a reserved select draws, whatever the levels are (30_encoding.md R49, R50). -/
theorem exec_instrOfFields_of_reserved (k b sp : PortBits) (s : State) (h : modeOf k = none) :
    exec (instrOfFields k b sp) s = .next s.drawOut := by
  simp only [instrOfFields, h]
  split_ifs <;> rfl

/-- Settles O23: each of the three rows is the draw. -/
theorem reservedSelectsDraw : Obligations.ReservedSelectsDraw :=
  fun b sp s => ⟨exec_instrOfFields_of_reserved 5#3 b sp s rfl,
    exec_instrOfFields_of_reserved 6#3 b sp s rfl, exec_instrOfFields_of_reserved 7#3 b sp s rfl⟩

/-- Settles O27: the step draws, and the inputs presented after it are evaluated with no regard to what
was drawn. -/
theorem encodeOutOfDomain : Obligations.EncodeOutOfDomain := by
  intro s k b sp hk hb hs hv
  refine ⟨s.drawOut, step_of_invalid s k b sp hk hb hs hv, drawOut_eq s,
    fun k' b' sp' m hv' hm => ?_⟩
  exact ⟨_, step_of_valid (s.drawOut.presentConfig k' b' sp') k' b' sp' rfl rfl rfl m hm hv',
    showFrame_out _ _⟩

/- ## Inside the valid domain -/

/-- The shape of the frame of two levels: three fields of 1 to 5, and a checksum in the thirteen values
around the wrap (30_encoding.md R53; 42_checksum.md R80). -/
theorem frameOf_shape (m : Mode) (b sp : Nat) (hb : 1 ≤ b ∧ b ≤ 5) (hs : 1 ≤ sp ∧ sp ≤ 5) :
    (1 ≤ (frameOf m b sp).byte1.toNat ∧ (frameOf m b sp).byte1.toNat ≤ 5) ∧
    (1 ≤ (frameOf m b sp).byte2.toNat ∧ (frameOf m b sp).byte2.toNat ≤ 5) ∧
    (1 ≤ (frameOf m b sp).byte3.toNat ∧ (frameOf m b sp).byte3.toNat ≤ 5) ∧
    (0xFD ≤ (frameOf m b sp).byte4.toNat ∨ (frameOf m b sp).byte4.toNat ≤ 0x09) := by
  have hcode : 1 ≤ (code m).toNat ∧ (code m).toNat ≤ 5 := by cases m <;> decide
  simp only [frameOf, BitVec.toNat_ofNat]
  omega

/-- Settles O33: in the valid domain the step shows the frame of two levels. -/
theorem frameShapeInTheValidDomain : Obligations.FrameShapeInTheValidDomain := by
  intro s hvalid
  rcases step_cases s with ⟨k, b, sp, m, -, -, -, hv, -, hstep⟩ | ⟨hinvalid, -⟩
  · obtain ⟨-, hb, hs⟩ := (valid_iff k b sp).1 hv
    exact ⟨_, hstep, rfl,
      frameOf_shape m b.toNat sp.toNat ((validLevel_iff b).1 hb) ((validLevel_iff sp).1 hs)⟩
  · exact absurd hvalid hinvalid

/- ## The start marker -/

/-- Settles O29: every step leaves coherent outputs, and these show the start marker. -/
theorem startMarkerForEveryInput : Obligations.StartMarkerForEveryInput := by
  intro s
  obtain ⟨t, hstep, -, hc⟩ := step_coherent s
  exact ⟨t, hstep, byte0_of_coherent t hc⟩

/-- The block shows the start marker, settled or not. -/
def System.ShowsStartMarker (y : System) : Prop := y.block.out.byte0 = 0xFA#8

/-- Each event leaves byte 0 at the start marker: a settled block is coherent, an unsettled one has drawn
the other four bytes, and the rest changes nothing (30_encoding.md R51; 70_reset_and_hazards.md R118). -/
theorem apply_preserves_showsStartMarker (e : Event) (y : System) (h : y.ShowsStartMarker) :
    (y.apply e).ShowsStartMarker := by
  cases e with
  | drive m =>
    cases hm : y.block.unchangedBy m with
    | true => rwa [apply_drive_unchanged y m hm]
    | false =>
      rw [apply_drive_changed y m hm]
      exact drawnFrame_byte0 _
  | wait t =>
    by_cases ht : Config.settleTime ≤ y.stableFor + t
    · rw [apply_wait_settled y t ht]
      exact byte0_of_coherent _ (settle_coherent y.block)
    · rw [apply_wait_unsettled y t ht]
      exact drawnFrame_byte0 _
  | sample i => exact h

/-- Settles O44: every event keeps byte 0, so each sample of port 0 is taken from a system that shows the
start marker. -/
theorem portZeroAlwaysShowsTheStartMarker : Obligations.PortZeroAlwaysShowsTheStartMarker := by
  refine ⟨fun y e => apply_preserves_showsStartMarker e y, fun y es p hy hp hport => ?_⟩
  obtain ⟨z, hz, hbyte⟩ := exists_system_of_mem_taken (P := System.ShowsStartMarker) es
    (fun e _ => apply_preserves_showsStartMarker e) y hy p hp
  rw [hbyte, hport]
  exact hz

end Sys2Proof.Machine
end

section
/-! SUPPORT. Range inversion on the levels (40_range_inversion.md R57, R60, R61), and each wire field of a
settled frame by the input it comes from (40_range_inversion.md R58, R59; 41_mode_mapping.md R65). -/

namespace Sys2Proof.Machine

/- ## Each field of a settled frame -/

/-- A step from valid inputs shows the frame of the three values on the ports (43_assembly.md R85). -/
theorem out_eq_frameOf_of_step (s t : State) (hv : s.Valid) (hst : step s = .next t) :
    ∃ k b sp m, s.modeSel = .driven k ∧ s.brightness = .driven b ∧ s.speed = .driven sp ∧
      modeOf k = some m ∧ t.out = frameOf m b.toNat sp.toNat := by
  rcases step_cases s with ⟨k, b, sp, m, hk, hb, hs, -, hm, hstep⟩ | ⟨hinvalid, -⟩
  · cases hst.symm.trans hstep
    exact ⟨k, b, sp, m, hk, hb, hs, hm, rfl⟩
  · exact absurd hv hinvalid

/-- Settles O35: both steps show the frame of their three values, and in such a frame byte 1 is written from
the mode alone, byte 2 from the brightness alone and byte 3 from the speed alone. -/
theorem fieldsAreIndependent : Obligations.FieldsAreIndependent := by
  intro s s' t t' hv hv' hst hst'
  obtain ⟨k, b, sp, m, hk, hb, hs, hm, hout⟩ := out_eq_frameOf_of_step s t hv hst
  obtain ⟨k', b', sp', m', hk', hb', hs', hm', hout'⟩ := out_eq_frameOf_of_step s' t' hv' hst'
  rw [hk, hk', hb, hb', hs, hs', hout, hout']
  refine ⟨fun hsame => ?_, fun hsame => ?_, fun hsame => ?_⟩
  · cases hsame
    cases hm.symm.trans hm'
    rfl
  · cases hsame
    rfl
  · cases hsame
    rfl

/- ## Range inversion -/

/-- Inversion is the three-bit complement less one: the complement is the difference from 7, and the
constant 6 is 7 less one (40_range_inversion.md R57). -/
theorem inv_eq_not_sub_one (v : PortBits) : inv v = ~~~v - 1#3 := by
  have hconst : Config.invK = BitVec.allOnes 3 - 1#3 := rfl
  rw [inv, hconst, sub_right_comm, BitVec.allOnes_sub_eq_not]

/-- Inversion reverses the order of the levels (40_range_inversion.md R60). -/
theorem inv_toNat_lt_iff (u v : PortBits) (hu : validLevel u = true) (hv : validLevel v = true) :
    (inv v).toNat < (inv u).toNat ↔ u.toNat < v.toNat := by
  have hurange := (validLevel_iff u).1 hu
  have hvrange := (validLevel_iff v).1 hv
  rw [inv_toNat u hu, inv_toNat v hv]
  omega

/-- Settles O9: the difference does not borrow, and the complement identity holds of every port value; the
five rows of the table are computed. -/
theorem rangeInversionTable : Obligations.RangeInversionTable :=
  ⟨fun v hv => ⟨inv_toNat v hv, inv_eq_not_sub_one v⟩, rfl, rfl, rfl, rfl, rfl⟩

/-- Settles O10: inversion is its own inverse on the levels, so each level is the inverse of its own. -/
theorem rangeInversionLaws : Obligations.RangeInversionLaws :=
  ⟨fun v hv => ⟨validLevel_inv v hv, inv_inv_eq v⟩,
    fun u v hu hv => (inv_toNat_lt_iff u v hu hv).symm,
    fun w hw => ⟨inv w, validLevel_inv w hw, inv_inv_eq w⟩⟩

end Sys2Proof.Machine
end

section
/-! SUPPORT. The mode table: from select to code (41_mode_mapping.md R71), its inverse and its image
(R73). -/

namespace Sys2Proof.Machine

/- ## From the select to the code -/

/-- A valid select is the select of a mode (00_scope.md R11; 30_encoding.md R43). -/
theorem exists_modeSel_of_validSel (k : PortBits) (h : validSel k = true) :
    ∃ m, Sys2Proof.modeSel m = k := by
  have hsel : k = 0#3 ∨ k = 1#3 ∨ k = 2#3 ∨ k = 3#3 ∨ k = 4#3 := by decide +revert
  rcases hsel with rfl | rfl | rfl | rfl | rfl
  · exact ⟨.off, rfl⟩
  · exact ⟨.auto, rfl⟩
  · exact ⟨.rainbow, rfl⟩
  · exact ⟨.breathing, rfl⟩
  · exact ⟨.colourCycle, rfl⟩

/-- The check on the table: the codes are the selects turned by three places among five, counted from 1
(41_mode_mapping.md R71). -/
theorem code_toNat_eq_modeSel_rotated (m : Mode) :
    (code m).toNat = ((Sys2Proof.modeSel m).toNat + 3) % 5 + 1 := by
  cases m <;> rfl

/-- Settles O6: the rows of the table are computed, and a valid select is that of a mode, of whose code the
check holds. -/
theorem modeSelectTable : Obligations.ModeSelectTable := by
  refine ⟨rfl, rfl, rfl, rfl, rfl, rfl, rfl, rfl, rfl, rfl, rfl, rfl, rfl, fun k hk => ?_⟩
  obtain ⟨m, rfl⟩ := exists_modeSel_of_validSel k hk
  rw [modeOf_modeSel, Option.map_some, code_toNat_eq_modeSel_rotated]

/- ## The codes -/

/-- Two modes with one code are one mode: the code leads back to its mode (41_mode_mapping.md R73). -/
theorem code_injective : Function.Injective code := by
  intro m n h
  have hback : some m = some n := by rw [← modeOfCode_code m, h, modeOfCode_code]
  exact Option.some.inj hback

/-- The code of a mode is 1 to 5 (41_mode_mapping.md R73). -/
theorem code_toNat_range (m : Mode) : 1 ≤ (code m).toNat ∧ (code m).toNat ≤ 5 := by
  rw [code_toNat_eq_modeSel_rotated]
  omega

/-- Every byte from 1 to 5 is the code of a mode: such a byte is its own low three bits, and these are the
low bits of a code (41_mode_mapping.md R73). -/
theorem exists_code_eq_of_range (c : Byte) (h : 1 ≤ c.toNat ∧ c.toNat ≤ 5) : ∃ m, code m = c := by
  have hlow : (c.setWidth 3).toNat = c.toNat := by
    rw [BitVec.toNat_setWidth]
    omega
  have hbyte : (c.setWidth 3).setWidth 8 = c :=
    BitVec.eq_of_toNat_eq (by rw [BitVec.toNat_setWidth_of_le (by decide), hlow])
  have hlevel : validLevel (c.setWidth 3) = true := by rwa [validLevel_iff, hlow]
  obtain ⟨m, hm⟩ := exists_mode_of_validLevel (c.setWidth 3) hlevel
  refine ⟨m, ?_⟩
  rw [← setWidth_setWidth_code, hm, hbyte]

/-- Settles O7: the five codes are computed, the code leads back to its mode, and the codes are the bytes
from 1 to 5. -/
theorem modeCodesInjectiveOntoOneToFive : Obligations.ModeCodesInjectiveOntoOneToFive := by
  refine ⟨rfl, rfl, rfl, rfl, rfl, fun m n h => code_injective h, fun c => ⟨?_, ?_⟩⟩
  · rintro ⟨m, rfl⟩
    exact code_toNat_range m
  · exact exists_code_eq_of_range c

end Sys2Proof.Machine
end

section
/-! SUPPORT. The checksum (42_checksum.md R74 to R83): a sum of bytes in the ring of bytes, whatever width
it is taken in, its closed form in the valid domain, the frame that checks itself, and the frame as a
function of the inputs alone. -/

namespace Sys2Proof.Machine

/- ## The sum of any three bytes -/

/-- Settles O11: sixteen bits hold the sum of four bytes, and the checksum is its low byte. -/
theorem checksumIsTheSumModulo256 : Obligations.ChecksumIsTheSumModulo256 :=
  fun mc wb ws => ⟨rawSum_toNat mc wb ws, total_toNat mc wb ws, checksum_toNat mc wb ws⟩

/-- The total of any three bytes fits in ten bits (42_checksum.md R77). -/
theorem total_toNat_le (mc wb ws : Byte) : (total mc wb ws).toNat ≤ 1015 := by
  rw [total_toNat]
  omega

/-- The checksum is the sum of the four bytes in eight bits: dropping the high bits of the total drops them
of its terms (42_checksum.md R74, R78). -/
theorem checksum_eq_sum (mc wb ws : Byte) :
    checksum mc wb ws = mc + wb + ws + Config.startMarker := by
  apply BitVec.eq_of_toNat_eq
  simp only [checksum_toNat, BitVec.toNat_add, BitVec.toNat_ofNat]
  omega

/-- Taking the low eight bits of a sum in any width of 8 or more is adding the bytes in eight bits: a carry
never comes back down (42_checksum.md R77). -/
theorem setWidth_sum_of_bytes (v x y z : Byte) (width : Nat) (h : 8 ≤ width) :
    (v.setWidth width + x.setWidth width + y.setWidth width + z.setWidth width).setWidth 8 =
      v + x + y + z := by
  simp only [BitVec.setWidth_add _ _ h, BitVec.setWidth_setWidth_of_le _ h, BitVec.setWidth_eq]

/-- Settles O12: the sum in every such width and the checksum are the same sum of four bytes. -/
theorem checksumDoesNotDependOnTheWidth : Obligations.ChecksumDoesNotDependOnTheWidth := by
  refine fun mc wb ws => ⟨fun hm hb hs => ?_, total_toNat_le mc wb ws, fun width hwidth => ?_⟩
  · rw [total_toNat]
    omega
  · rw [setWidth_sum_of_bytes _ _ _ _ _ hwidth, checksum_eq_sum]
    ac_rfl

/- ## The closed form in the valid domain -/

/-- The checksum in terms of `raw_sum` (42_checksum.md R74). -/
theorem checksum_toNat_eq_rawSum (mc wb ws : Byte) :
    (checksum mc wb ws).toNat = ((rawSum mc wb ws).toNat + 250) % 256 := by
  rw [checksum_toNat, rawSum_toNat]

/-- The sum wraps exactly where `raw_sum` makes up the 6 that 0xFA lacks of 256 (42_checksum.md R78). -/
theorem checksumWraps_iff (mc wb ws : Byte) :
    checksumWraps mc wb ws = true ↔ 6 ≤ (rawSum mc wb ws).toNat := by
  rw [checksumWraps, decide_eq_true_iff, total_toNat, rawSum_toNat]
  omega

/-- A wire level is 1 to 5 (40_range_inversion.md R60). -/
theorem setWidth_inv_toNat_range (v : PortBits) (h : validLevel v = true) :
    1 ≤ ((inv v).setWidth 8 : Byte).toNat ∧ ((inv v).setWidth 8 : Byte).toNat ≤ 5 := by
  rw [BitVec.toNat_setWidth_of_le (by decide)]
  exact (validLevel_iff _).1 (validLevel_inv v h)

/-- In the valid domain `raw_sum` is a sum of three values of 1 to 5 (42_checksum.md R79). -/
theorem rawSum_toNat_range (m : Mode) (b sp : PortBits) (hb : validLevel b = true)
    (hs : validLevel sp = true) :
    3 ≤ (rawSum (code m) ((inv b).setWidth 8) ((inv sp).setWidth 8)).toNat ∧
      (rawSum (code m) ((inv b).setWidth 8) ((inv sp).setWidth 8)).toNat ≤ 15 := by
  have hcode := code_toNat_range m
  have hwb := setWidth_inv_toNat_range b hb
  have hws := setWidth_inv_toNat_range sp hs
  rw [rawSum_toNat]
  omega

/-- Settles O13: `raw_sum + 250` is at most 265, so that the modulus takes 256 off at most once, and it does
so from 6 on. -/
theorem checksumClosedFormInDomain : Obligations.ChecksumClosedFormInDomain := by
  intro m b sp hb hs wb ws raw
  obtain ⟨hmin, hmax⟩ : 3 ≤ raw ∧ raw ≤ 15 := rawSum_toNat_range m b sp hb hs
  have hsum : (checksum (code m) wb ws).toNat = (raw + 250) % 256 :=
    checksum_toNat_eq_rawSum (code m) wb ws
  refine ⟨hmin, hmax, checksumWraps_iff (code m) wb ws, fun hbelow => ?_, fun hwraps => ?_⟩
  · rw [hsum, Nat.mod_eq_of_lt (by omega)]
  · rw [hsum]
    omega

/- ## The settled frame -/

/-- The frame over numbers checks itself (42_checksum.md R83). -/
theorem selfCheck_frameOf (m : Mode) (b sp : Nat) : (frameOf m b sp).selfCheck = true := by
  simp only [Frame.selfCheck, frameOf, beq_iff_eq, BitVec.toNat_ofNat]
  omega

/-- Settles O32: on valid inputs the step shows the frame of their values, and that frame checks itself. -/
theorem frameChecksItself : Obligations.FrameChecksItself := by
  intro s hvalid
  rcases step_cases s with ⟨k, b, sp, m, -, -, -, -, -, hstep⟩ | ⟨hinvalid, -⟩
  · exact ⟨_, hstep, beq_iff_eq.1 (selfCheck_frameOf m b.toNat sp.toNat)⟩
  · exact absurd hvalid hinvalid

/-- Settles O36: the frame is that of the three values on the ports, and both states carry these values. -/
theorem blockIsMemoryless : Obligations.BlockIsMemoryless := by
  rintro s s' ⟨hsel, hbright, hspeed⟩ hvalid
  rcases step_cases s with ⟨k, b, sp, m, hk, hb, hs, hv, hm, hstep⟩ | ⟨hinvalid, -⟩
  · exact ⟨frameOf m b.toNat sp.toNat, hstep,
      step_of_valid s' k b sp (hsel ▸ hk) (hbright ▸ hb) (hspeed ▸ hs) m hm hv⟩
  · exact absurd hvalid hinvalid

end Sys2Proof.Machine
end

section
/-! SUPPORT. `ENCODE` in its rows and at the ports (43_assembly.md R84 to R95): the five frames of the mode
rows with byte 4 in closed form, the whole operation on valid inputs, and the way back from its frame. -/

namespace Sys2Proof.Machine

/- ## Byte 4 as a difference from the levels -/

/-- The total over two inverted levels: the two sixes and the start marker make 262 (43_assembly.md R87 to
R91). -/
theorem total_inverted_toNat (mc : Byte) (b sp : Nat) (hb : b ≤ 6) (hs : sp ≤ 6) :
    (total mc (BitVec.ofNat 8 (6 - b)) (BitVec.ofNat 8 (6 - sp))).toNat + b + sp =
      mc.toNat + 262 := by
  simp only [total_toNat, BitVec.toNat_ofNat]
  omega

/-- A byte that holds `n` less two levels, where `n` is not below their sum: there is no wrap. -/
theorem toNat_ofInt_sub_of_le (n b sp : Nat) (hle : b + sp ≤ n) (hn : n < 256) :
    (BitVec.ofInt 8 ((n : Int) - b - sp)).toNat = n - b - sp := by
  rw [BitVec.toNat_ofInt]
  omega

/-- A byte that holds `n` less two levels, where `n` is below their sum: it wraps once. -/
theorem toNat_ofInt_sub_of_lt (n b sp : Nat) (hlt : n < b + sp) (hsum : b + sp ≤ n + 256) :
    (BitVec.ofInt 8 ((n : Int) - b - sp)).toNat = n + 256 - b - sp := by
  rw [BitVec.toNat_ofInt]
  omega

/-- Modulo 256 the 262 of the total is 6, so byte 4 is `code + 6 - b - s` (43_assembly.md R87 to R91). -/
theorem frameOf_byte4_eq_ofInt (m : Mode) (n b sp : Nat) (hn : (code m).toNat + 6 = n) (hb : b ≤ 6)
    (hs : sp ≤ 6) : (frameOf m b sp).byte4 = BitVec.ofInt 8 ((n : Int) - b - sp) := by
  apply BitVec.eq_of_toNat_eq
  simp only [frameOf, BitVec.toNat_ofNat, BitVec.toNat_ofInt]
  omega

/-- The same in natural numbers, where the difference is none below zero (43_assembly.md R87, R88). -/
theorem frameOf_byte4_eq_ofNat (m : Mode) (n b sp : Nat) (hn : (code m).toNat + 6 = n) (hb : b ≤ 6)
    (hs : sp ≤ 6) (hle : b + sp ≤ n) : (frameOf m b sp).byte4 = BitVec.ofNat 8 (n - b - sp) := by
  have hcast : ((n - b - sp : Nat) : Int) = (n : Int) - b - sp := by omega
  rw [frameOf_byte4_eq_ofInt m n b sp hn hb hs, ← BitVec.ofInt_natCast, hcast]

/- ## The rows -/

/-- The word of a mode's select and two levels is the mode's row (30_encoding.md R43, R48). -/
theorem decodeCfg_modeSel (m : Mode) (b sp : PortBits) :
    decodeCfg (cfgWord (Sys2Proof.modeSel m) b sp) = instrOfMode b sp m := by
  rw [decodeCfg_cfgWord, instrOfFields_modeSel]

/-- On valid levels the row of a mode shows the frame of that mode and changes nothing else
(43_assembly.md R85). -/
theorem exec_instrOfMode_of_valid (m : Mode) (b sp : PortBits) (s : State)
    (hb : validLevel b = true) (hs : validLevel sp = true) :
    exec (instrOfMode b sp m) s = .next (s.showFrame (frameOf m b.toNat sp.toNat)) := by
  rw [exec_instrOfMode, encodeMode_eq, if_pos ⟨hb, hs⟩, assemble_eq_frameOf m b sp hb hs]

/-- The frame that the row of a mode shows, with byte 4 given (43_assembly.md R85). -/
theorem exec_instrOfMode_of_byte4 (m : Mode) (b sp : PortBits) (s : State) (byte4 : Byte)
    (hb : validLevel b = true) (hs : validLevel sp = true)
    (hbyte : (frameOf m b.toNat sp.toNat).byte4 = byte4) :
    exec (instrOfMode b sp m) s = .next { s with
      out := ⟨0xFA#8, code m, BitVec.ofNat 8 (6 - b.toNat), BitVec.ofNat 8 (6 - sp.toNat), byte4⟩ } := by
  rw [exec_instrOfMode_of_valid m b sp s hb hs, ← hbyte]
  rfl

/-- Settles O17: two levels sum to 10 at most, so that `10 - b - s` and the total less 256 agree. -/
theorem encOffGivesItsFrame : Obligations.EncOffGivesItsFrame := by
  intro b sp s hb hs
  have hbr := (validLevel_iff b).1 hb
  have hsr := (validLevel_iff sp).1 hs
  have htotal := total_inverted_toNat 0x04#8 b.toNat sp.toNat (by omega) (by omega)
  have hcode : (0x04#8 : Byte).toNat = 4 := rfl
  have hbyte := frameOf_byte4_eq_ofNat .off 10 b.toNat sp.toNat rfl (by omega) (by omega) (by omega)
  refine ⟨decodeCfg_modeSel .off b sp, exec_instrOfMode_of_byte4 .off b sp s _ hb hs hbyte, ?_⟩
  omega

/-- Settles O18: as for `ENC.OFF`, with 11 in the place of 10. -/
theorem encAutoGivesItsFrame : Obligations.EncAutoGivesItsFrame := by
  intro b sp s hb hs
  have hbr := (validLevel_iff b).1 hb
  have hsr := (validLevel_iff sp).1 hs
  have htotal := total_inverted_toNat 0x05#8 b.toNat sp.toNat (by omega) (by omega)
  have hcode : (0x05#8 : Byte).toNat = 5 := rfl
  have hbyte := frameOf_byte4_eq_ofNat .auto 11 b.toNat sp.toNat rfl (by omega) (by omega) (by omega)
  refine ⟨decodeCfg_modeSel .auto b sp, exec_instrOfMode_of_byte4 .auto b sp s _ hb hs hbyte, ?_⟩
  omega

/-- Settles O19: `7 - b - s` goes below zero from a sum of 8 on, and there the total stays below 256. -/
theorem encRainbowGivesItsFrame : Obligations.EncRainbowGivesItsFrame := by
  intro b sp s hb hs byte4 sum
  have hbr := (validLevel_iff b).1 hb
  have hsr := (validLevel_iff sp).1 hs
  have htotal : sum + b.toNat + sp.toNat = 1 + 262 :=
    total_inverted_toNat 0x01#8 b.toNat sp.toNat (by omega) (by omega)
  have hbyte := frameOf_byte4_eq_ofInt .rainbow 7 b.toNat sp.toNat rfl (by omega) (by omega)
  refine ⟨decodeCfg_modeSel .rainbow b sp, exec_instrOfMode_of_byte4 .rainbow b sp s _ hb hs hbyte,
    fun hle => ?_, fun hge => ?_⟩
  · have hvalue : byte4.toNat = 7 - b.toNat - sp.toNat :=
      toNat_ofInt_sub_of_le 7 _ _ hle (by omega)
    omega
  · have hvalue : byte4.toNat = 7 + 256 - b.toNat - sp.toNat :=
      toNat_ofInt_sub_of_lt 7 _ _ (by omega) (by omega)
    omega

/-- Settles O20: `8 - b - s` goes below zero at the sums 9 and 10 only, by 1 and by 2. -/
theorem encBreathingGivesItsFrame : Obligations.EncBreathingGivesItsFrame := by
  intro b sp s hb hs byte4
  have hbr := (validLevel_iff b).1 hb
  have hsr := (validLevel_iff sp).1 hs
  have hbyte := frameOf_byte4_eq_ofInt .breathing 8 b.toNat sp.toNat rfl (by omega) (by omega)
  have hwraps (hge : 9 ≤ b.toNat + sp.toNat) : byte4.toNat = 264 - b.toNat - sp.toNat :=
    toNat_ofInt_sub_of_lt 8 _ _ (by omega) (by omega)
  refine ⟨decodeCfg_modeSel .breathing b sp,
    exec_instrOfMode_of_byte4 .breathing b sp s _ hb hs hbyte,
    fun hle => ?_, hwraps, fun hnine => ?_, fun hten => ?_⟩
  · have hvalue : byte4.toNat = 8 - b.toNat - sp.toNat :=
      toNat_ofInt_sub_of_le 8 _ _ hle (by omega)
    omega
  · exact BitVec.eq_of_toNat_eq ((hwraps (by omega)).trans (by simp; omega))
  · exact BitVec.eq_of_toNat_eq ((hwraps (by omega)).trans (by simp; omega))

/-- Settles O21: `9 - b - s` goes below zero at the sum 10 only, which two levels reach at 5 and 5. -/
theorem encColourCycleGivesItsFrame : Obligations.EncColourCycleGivesItsFrame := by
  intro b sp s hb hs byte4
  have hbr := (validLevel_iff b).1 hb
  have hsr := (validLevel_iff sp).1 hs
  have hbyte := frameOf_byte4_eq_ofInt .colourCycle 9 b.toNat sp.toNat rfl (by omega) (by omega)
  refine ⟨decodeCfg_modeSel .colourCycle b sp,
    exec_instrOfMode_of_byte4 .colourCycle b sp s _ hb hs hbyte, fun hle => ?_, fun hten => ?_⟩
  · have hvalue : byte4.toNat = 9 - b.toNat - sp.toNat :=
      toNat_ofInt_sub_of_le 9 _ _ hle (by omega)
    omega
  · have hvalue : byte4.toNat = 9 + 256 - b.toNat - sp.toNat :=
      toNat_ofInt_sub_of_lt 9 _ _ (by omega) (by omega)
    exact ⟨BitVec.eq_of_toNat_eq (hvalue.trans (by simp; omega)),
      BitVec.eq_of_toNat_eq (by simp; omega), BitVec.eq_of_toNat_eq (by simp; omega)⟩

/-- The meaning of the row `FRAME` (43_assembly.md R84). -/
theorem exec_frame (m wb ws : PortBits) (c : Byte) (s : State) :
    exec (.frame m wb ws c) s = .next (s.showFrame (assemble ⟨m.setWidth 8, wb, ws, c⟩)) := rfl

/-- Settles O24: the row shows the assembly of its operands. -/
theorem frameRowAssembles : Obligations.FrameRowAssembles := by
  intro m wb ws c s
  rw [exec_frame, assemble, State.showFrame]

/- ## The operation at the ports -/

/-- Settles O26: the step shows the frame over numbers, and its sum is one of three values of 1 to 5 beside
the start marker. -/
theorem encodeInTheValidDomain : Obligations.EncodeInTheValidDomain := by
  intro s k b sp m hk hb hs hv hm sum
  obtain ⟨-, hlb, hls⟩ := (valid_iff k b sp).1 hv
  have hbr := (validLevel_iff b).1 hlb
  have hsr := (validLevel_iff sp).1 hls
  have hcode := code_toNat_range m
  have hsum : sum = 0xFA + (code m).toNat + (6 - b.toNat) + (6 - sp.toNat) := rfl
  exact ⟨by omega, by omega, step_of_valid s k b sp hk hb hs m hm hv⟩

/-- The frame shown on valid inputs gives back the three values on the ports (43_assembly.md R95). -/
theorem recoverConfig_step (s t : State) (k b sp : PortBits) (hk : s.modeSel = .driven k)
    (hb : s.brightness = .driven b) (hs : s.speed = .driven sp) (hv : valid k b sp = true)
    (hstep : step s = .next t) : recoverConfig t.out = some (k, b, sp) := by
  obtain ⟨hsel, hlb, hls⟩ := (valid_iff k b sp).1 hv
  obtain ⟨m, rfl⟩ := exists_modeSel_of_validSel k (decide_eq_true hsel)
  cases hstep.symm.trans (step_of_valid s _ b sp hk hb hs m (modeOf_modeSel m) hv)
  rw [showFrame_out, ← assemble_eq_frameOf m b sp hlb hls, recoverConfig_assemble m b sp hlb hls]

/-- Settles O34: the frame gives its configuration back, so one frame has one configuration. -/
theorem encodingIsInjective : Obligations.EncodingIsInjective := by
  refine ⟨?_, recoverConfig_step⟩
  rintro s s' t t' ⟨k, b, sp, hk, hb, hs, hv⟩ ⟨k', b', sp', hk', hb', hs', hv'⟩ hst hst' hout
  have hback := recoverConfig_step s t k b sp hk hb hs hv hst
  rw [hout, recoverConfig_step s' t' k' b' sp' hk' hb' hs' hv' hst'] at hback
  cases hback
  exact ⟨hk.trans hk'.symm, hb.trans hb'.symm, hs.trans hs'.symm⟩

end Sys2Proof.Machine
end

section
/-! SUPPORT. The inputs outside the valid domain (60_exceptions.md R100, R103): the step does one thing on
all of them, so no field is examined before another. -/

namespace Sys2Proof.Machine

/-- On inputs that are not valid the step draws, whether a field is out of range or a port is not driven
(43_assembly.md R86; 70_reset_and_hazards.md R114). -/
theorem step_of_not_valid (s : State) (h : ¬s.Valid) : step s = .next s.drawOut := by
  rcases step_cases s with ⟨k, b, sp, -, hk, hb, hs, hv, -⟩ | ⟨-, hstep⟩
  · exact absurd ⟨k, b, sp, hk, hb, hs, hv⟩ h
  · exact hstep

/-- A draw leaves the inputs as they are (43_assembly.md R86). -/
theorem drawOut_sameInputs (s : State) : s.drawOut.SameInputs s :=
  ⟨drawOut_modeSel s, drawOut_brightness s, drawOut_speed s⟩

/-- Settles O37: both steps draw, and a draw depends on the count of draws alone. -/
theorem noFieldIsExaminedBeforeAnother : Obligations.NoFieldIsExaminedBeforeAnother := by
  intro s s' hinvalid hinvalid' hdraws
  have hout : s.drawOut.out = s'.drawOut.out := by rw [drawOut_out, drawOut_out, hdraws]
  have hcount : s.drawOut.draws = s'.drawOut.draws := by rw [drawOut_draws, drawOut_draws, hdraws]
  exact ⟨s.drawOut, s'.drawOut, step_of_not_valid s hinvalid, step_of_not_valid s' hinvalid',
    hout, hcount, drawOut_sameInputs s, drawOut_sameInputs s'⟩

end Sys2Proof.Machine
end

section
/-! SUPPORT. Power-up (70_reset_and_hazards.md R113, R114): no input is driven, so coherence asks
for the start marker alone, and the ports show it from the first moment. -/

namespace Sys2Proof.Machine

/-- At power-up the inputs are not valid: none of them is driven (70_reset_and_hazards.md R114). -/
theorem not_valid_reset : ¬State.reset.Valid := by
  rintro ⟨k, -, -, hk, -⟩
  cases hk

/-- The power-up state is coherent (70_reset_and_hazards.md R114). -/
theorem coherent_reset : State.reset.Coherent :=
  (coherent_iff_of_not_valid State.reset not_valid_reset).2 rfl

/-- Settles O31: the fields of the power-up state, and its coherence. -/
theorem powerUpState : Obligations.PowerUpState :=
  ⟨rfl, rfl, rfl, rfl, rfl, coherent_reset⟩

/-- Settles O41: the power-up state is coherent whatever time has passed. -/
theorem powerUpIsRight : Obligations.PowerUpIsRight :=
  ⟨rfl, fun _ => coherent_reset⟩

end Sys2Proof.Machine
end

section
/-! SUPPORT. The emission of a frame, outside the block (70_reset_and_hazards.md R120 to R124, R127): the
two ways an emission ends exclude each other, what the pacing adds up to, and what the emission loop writes
for any bytes and any answers of the transport. -/

namespace Sys2Proof.Machine

/- ## How an emission ends -/

/-- A frame is sent by five writes, all good (70_reset_and_hazards.md R122). -/
theorem frameSent_iff (ws : List ByteWrite) :
    frameSent ws = true ↔ ws.length = 5 ∧ ∀ w ∈ ws, w.ok = true := by
  simp [frameSent]

/-- Where every write is good, none of them is a failed last one. -/
theorem emissionFailed_of_all_ok (ws : List ByteWrite) (h : ∀ w ∈ ws, w.ok = true) :
    emissionFailed ws = false := by
  rcases ws.eq_nil_or_concat' with rfl | ⟨earlier, last, rfl⟩
  · exact emissionFailed_nil
  · have hlast : last.ok = true := h last (by simp)
    rw [emissionFailed_append, hlast, Bool.not_true]

/-- A good write in front changes nothing in whether the emission failed. -/
theorem emissionFailed_cons_of_ok (w : ByteWrite) (ws : List ByteWrite) (h : w.ok = true) :
    emissionFailed (w :: ws) = emissionFailed ws := by
  rcases ws.eq_nil_or_concat' with rfl | ⟨earlier, last, rfl⟩
  · simp [emissionFailed, h]
  · rw [← List.cons_append, emissionFailed_append, emissionFailed_append]

/-- An emission fails exactly where it does not send the frame: there is no third way to end
(70_reset_and_hazards.md R123). -/
theorem emissionFailed_iff_of_emissionOf (f : Frame) (ws : List ByteWrite) (h : emissionOf f ws) :
    emissionFailed ws = true ↔ frameSent ws = false := by
  constructor
  · intro hfailed
    by_contra hsent
    obtain ⟨-, hok⟩ := (frameSent_iff ws).1 (Bool.of_not_eq_false hsent)
    exact absurd hfailed (by simp [emissionFailed_of_all_ok ws hok])
  · intro hunsent
    obtain ⟨-, hsent | hfailed⟩ := h
    · exact absurd hsent (by simp [hunsent])
    · exact hfailed

/-- The values of a sent frame are its five bytes (70_reset_and_hazards.md R120). -/
theorem values_of_frameSent (f : Frame) (ws : List ByteWrite) (h : emissionSoFar f ws)
    (hsent : frameSent ws = true) : ws.map ByteWrite.value = f.bytes := by
  obtain ⟨-, hvalues, -⟩ := h
  obtain ⟨hlen, -⟩ := (frameSent_iff ws).1 hsent
  rw [hvalues, hlen]
  rfl

/-- In well-paced writes only the last can have failed (70_reset_and_hazards.md R123). -/
theorem wellPaced_dropLast_ok (ws : List ByteWrite) (h : wellPaced ws) :
    ws.dropLast.all ByteWrite.ok = true := by
  rcases ws.eq_nil_or_concat' with rfl | ⟨earlier, last, rfl⟩
  · rfl
  · rw [List.dropLast_concat, List.all_eq_true]
    exact wellPaced_earlier_ok earlier last h

/-- No write follows an ended emission: a frame has no sixth byte, and a failed write is the last
(70_reset_and_hazards.md R122, R123). -/
theorem not_emissionSoFar_append (f : Frame) (ws : List ByteWrite) (w : ByteWrite)
    (h : emissionOf f ws) : ¬emissionSoFar f (ws ++ [w]) := by
  rintro ⟨hlen, -, hpaced⟩
  rw [List.length_append, List.length_singleton] at hlen
  obtain ⟨-, hsent | hfailed⟩ := h
  · obtain ⟨hfive, -⟩ := (frameSent_iff ws).1 hsent
    omega
  · have hok := wellPaced_earlier_ok ws w hpaced
    exact absurd hfailed (by simp [emissionFailed_of_all_ok ws hok])

/-- Settles O48: each of the two ends excludes the other, and neither leaves room for a further write. -/
theorem emissionIsAllOrNothing : Obligations.EmissionIsAllOrNothing := by
  refine ⟨?ends, not_emissionSoFar_append, ?unfinished⟩
  case ends =>
    intro f ws h
    have hexclusive := emissionFailed_iff_of_emissionOf f ws h
    obtain ⟨hsofar, hsent | hfailed⟩ := h
    · obtain ⟨-, hok⟩ := (frameSent_iff ws).1 hsent
      exact .inl ⟨hsent, emissionFailed_of_all_ok ws hok, values_of_frameSent f ws hsofar hsent⟩
    · obtain ⟨-, -, hpaced⟩ := hsofar
      exact .inr ⟨hexclusive.1 hfailed, hfailed, wellPaced_dropLast_ok ws hpaced⟩
  case unfinished =>
    rintro f ws hshort hok ⟨-, hsent | hfailed⟩
    · obtain ⟨hfive, -⟩ := (frameSent_iff ws).1 hsent
      omega
    · exact absurd hfailed (by simp [emissionFailed_of_all_ok ws (List.all_eq_true.1 hok)])

/- ## The time an emission takes -/

/-- Well-paced writes last at least one inter-byte delay for each write after the first
(70_reset_and_hazards.md R121). -/
theorem wellPaced_duration (w v : ByteWrite) (ws : List ByteWrite) (h : wellPaced (w :: ws))
    (hlast : (w :: ws).getLast? = some v) :
    w.start + ws.length * Config.interByteDelay ≤ v.finish := by
  induction ws generalizing w with
  | nil =>
    obtain ⟨hstart, -⟩ := h
    cases hlast
    simpa using hstart
  | cons u us ih =>
    obtain ⟨⟨hstart, -⟩, -, hgap, hrest⟩ := h
    have hrestLast : u.start + us.length * Config.interByteDelay ≤ v.finish :=
      ih u hrest (by rwa [List.getLast?_cons_cons] at hlast)
    rw [List.length_cons, Nat.succ_mul]
    omega

/-- Settles O47: five well-paced writes have four gaps between them. -/
theorem completeEmissionLastsFourGaps : Obligations.CompleteEmissionLastsFourGaps := by
  rintro f ws w v ⟨hsofar, -⟩ hsent hfirst hlast
  refine ⟨values_of_frameSent f ws hsofar hsent, ?_⟩
  obtain ⟨-, -, hpaced⟩ := hsofar
  obtain ⟨hfive, -⟩ := (frameSent_iff ws).1 hsent
  obtain ⟨us, rfl⟩ := List.head?_eq_some_iff.1 hfirst
  have hfour : us.length = 4 := Nat.succ.inj hfive
  exact hfour ▸ wellPaced_duration w v us hpaced hlast

/- ## The emission loop -/

/-- A good write may stand in front of well-paced ones if it ends one gap before the first of them starts
(70_reset_and_hazards.md R121, R123). -/
theorem wellPaced_cons (w : ByteWrite) (ws : List ByteWrite) (hw : w.bounded) (hok : w.ok = true)
    (hgap : ∀ v ∈ ws.head?, w.finish + Config.interByteDelay ≤ v.start) (hws : wellPaced ws) :
    wellPaced (w :: ws) := by
  cases ws with
  | nil => exact hw
  | cons v vs => exact ⟨hw, hok, hgap v rfl, hws⟩

/-- The first write of the loop starts when the loop does. -/
theorem emitBytes_head_start (now : Nat) (bytes : List Byte) (answers : List (Nat × Bool)) :
    ∀ w ∈ (emitBytes now bytes answers).head?, w.start = now := by
  fun_cases emitBytes now bytes answers with
  | case1 => exact fun _ hw => nomatch hw
  | case2 => rintro _ ⟨⟩; rfl
  | case3 => rintro _ ⟨⟩; rfl
  | case4 => rintro _ ⟨⟩; rfl

/-- The loop keeps the gap and the time limit, and stops at a failed write
(70_reset_and_hazards.md R121, R123, R124). -/
theorem emitBytes_wellPaced (now : Nat) (bytes : List Byte) (answers : List (Nat × Bool)) :
    wellPaced (emitBytes now bytes answers) := by
  fun_induction emitBytes now bytes answers with
  | case1 => trivial
  | case2 now v vs => exact ⟨Nat.le_add_right _ _, Nat.le_refl _⟩
  | case3 now v vs time good answers haccepted ih =>
    refine wellPaced_cons _ _ ⟨Nat.le_add_right _ _, ?_⟩ rfl ?_ ih
    · exact Nat.add_le_add_left haccepted.1 now
    · intro w hw
      exact (emitBytes_head_start _ vs answers w hw).ge
  | case4 now v vs time good answers hrefused =>
    exact ⟨Nat.le_add_right _ _, Nat.add_le_add_left (Nat.min_le_right _ _) now⟩

/-- The loop writes the bytes in order, from the first on (70_reset_and_hazards.md R120). -/
theorem emitBytes_values (now : Nat) (bytes : List Byte) (answers : List (Nat × Bool)) :
    (emitBytes now bytes answers).map ByteWrite.value =
      bytes.take (emitBytes now bytes answers).length := by
  fun_induction emitBytes now bytes answers with
  | case1 => rfl
  | case2 => rfl
  | case3 now v vs time good answers haccepted ih =>
    rw [List.map_cons, List.length_cons, List.take_succ_cons, ih]
  | case4 => rfl

/-- The loop makes at most one write for each byte (70_reset_and_hazards.md R120, R123). -/
theorem emitBytes_length_le (now : Nat) (bytes : List Byte) (answers : List (Nat × Bool)) :
    (emitBytes now bytes answers).length ≤ bytes.length := by
  have hvalues := congrArg List.length (emitBytes_values now bytes answers)
  rw [List.length_map, List.length_take] at hvalues
  omega

/-- The loop ends with all the bytes written or with a failed write (70_reset_and_hazards.md R123). -/
theorem emitBytes_complete_or_failed (now : Nat) (bytes : List Byte)
    (answers : List (Nat × Bool)) :
    ((emitBytes now bytes answers).length = bytes.length ∧
      ∀ w ∈ emitBytes now bytes answers, w.ok = true) ∨
    emissionFailed (emitBytes now bytes answers) = true := by
  fun_induction emitBytes now bytes answers with
  | case1 => exact .inl ⟨rfl, by simp⟩
  | case2 => exact .inr rfl
  | case3 now v vs time good answers haccepted ih =>
    rw [emissionFailed_cons_of_ok _ _ rfl]
    exact ih.imp_left fun ⟨hlen, hok⟩ =>
      ⟨congrArg Nat.succ hlen, List.forall_mem_cons.2 ⟨rfl, hok⟩⟩
  | case4 => exact .inr rfl

/-- The loop writes all the bytes well exactly when the transport has an answer for each, good and in time
(70_reset_and_hazards.md R122, R124). -/
theorem emitBytes_complete_iff (now : Nat) (bytes : List Byte) (answers : List (Nat × Bool)) :
    ((emitBytes now bytes answers).length = bytes.length ∧
      ∀ w ∈ emitBytes now bytes answers, w.ok = true) ↔
    bytes.length ≤ answers.length ∧
      ∀ a ∈ answers.take bytes.length, a.1 ≤ Config.writeTimeout ∧ a.2 = true := by
  fun_induction emitBytes now bytes answers with
  | case1 => simp
  | case2 => simp
  | case3 now v vs time good answers haccepted ih =>
    simp only [List.length_cons, List.take_succ_cons, List.forall_mem_cons, Nat.add_right_cancel_iff,
      Nat.add_le_add_iff_right, haccepted, true_and, and_self, ih]
  | case4 now v vs time good answers hrefused =>
    simp only [List.length_cons, List.take_succ_cons, List.forall_mem_cons, hrefused, false_and,
      and_false, Bool.false_eq_true]

/-- For the five bytes of a frame the loop makes an emission of it (70_reset_and_hazards.md R120 to R124). -/
theorem emitBytes_emissionOf (f : Frame) (now : Nat) (answers : List (Nat × Bool)) :
    emissionOf f (emitBytes now f.bytes answers) :=
  ⟨⟨emitBytes_length_le now f.bytes answers, emitBytes_values now f.bytes answers,
      emitBytes_wellPaced now f.bytes answers⟩,
    (emitBytes_complete_or_failed now f.bytes answers).imp_left (frameSent_iff _).2⟩

/-- Settles O46: the loop makes an emission, so the facts about every emission hold of it, and it sends the
frame under the condition that holds for bytes of any number. -/
theorem emissionLoopKeepsTheDuties : Obligations.EmissionLoopKeepsTheDuties := by
  intro f now answers writes
  have hemission : emissionOf f writes := emitBytes_emissionOf f now answers
  have hsent : frameSent writes = true ↔ 5 ≤ answers.length ∧
      ∀ a ∈ answers.take 5, a.1 ≤ Config.writeTimeout ∧ a.2 = true :=
    (frameSent_iff writes).trans (emitBytes_complete_iff now f.bytes answers)
  exact ⟨hemission, hsent, values_of_frameSent f writes hemission.1,
    emissionFailed_iff_of_emissionOf f writes hemission⟩

end Sys2Proof.Machine
end
